-- ==== Sys2Proof/Word.lean ====
section
/-! DEFINITION. The word types of the block (spec/00_scope.md R9, R12, R15): widths only, no behaviour. -/

namespace Sys2Proof

/-- A command word or a response word (R9: CMD_W = RSP_W = 32). -/
abbrev Word := BitVec 32

/-- A counter value, compare value, tick offset or pulse width (R9: CNT_W = PW_W = 16). -/
abbrev Tick := BitVec 16

/-- The data field of a response word (R82). -/
abbrev Data := BitVec 28

/-- The number of a port latch (R61, 2 bits: all four are legal). -/
abbrev PortId := BitVec 2

/-- The number of a port bit (R61, 3 bits: all eight are legal). -/
abbrev PinId := BitVec 3

/-- One 8-bit output latch, or an 8-bit mask of its pins (R9: PORT_W = 8). -/
abbrev PortBits := BitVec 8

/-- A logic level (R15): `true` is 1 = HIGH, `false` is 0 = LOW. -/
abbrev Level := Bool

/-- The names of the nine registers RD_REG reads by number (R66). -/
inductive RegName where
  | status | cnt | ocr | fbase | frame | schedPos | ovr | now | vmask
deriving DecidableEq, Repr

end Sys2Proof
end

