-- ==== Sys2Proof/Syntax.lean ====
section
/-! DEFINITION. The 14 host commands of spec/30_encoding.md R84, with their operands at the widths of R83. -/

namespace Sys2Proof

/-- A host command (R84). Every operand has exactly the width of its field (R83), so every value of this type is a command
some word encodes; out-of-range VALUES of a field (idx 6 or 7, r 9..15, i 6 or 7, k 7) are legal encodings (R88). -/
inductive Instr where
  /-- NOP (R190). -/
  | nop
  /-- INIT_SERVO idx, port, pin, rest, pw (R110). -/
  | initServo (idx : BitVec 3) (port : PortId) (pin : PinId) (rest : Level) (pw : Tick)
  /-- INIT_SERVOS (R180). -/
  | initServos
  /-- DISARM (R184). -/
  | disarm
  /-- GIE_WR v (R186). -/
  | gieWr (v : Bool)
  /-- RD_REG r (R189). -/
  | rdReg (r : BitVec 4)
  /-- RD_CH i (R116). -/
  | rdCh (i : BitVec 3)
  /-- RD_EV s, k (R139): `s = false` is the active queue, `s = true` the shadow queue. -/
  | rdEv (s : Bool) (k : BitVec 3)
  /-- RD_PORT p (R204). -/
  | rdPort (p : PortId)
  /-- GPIO_SET p, m (R201). -/
  | gpioSet (p : PortId) (m : PortBits)
  /-- GPIO_CLR p, m (R202). -/
  | gpioClr (p : PortId) (m : PortBits)
  /-- GPIO_TGL p, m (R203). -/
  | gpioTgl (p : PortId) (m : PortBits)
  /-- EXT_CLAIM (R206). -/
  | extClaim
  /-- EXT_RELEASE (R207). -/
  | extRelease
deriving DecidableEq, Repr

end Sys2Proof
end

