-- ==== Sys2Proof/Decode.lean ====
section
/-! DEFINITION. Decoding and encoding of command words (spec/30_encoding.md R80 to R88). The fifteen outcomes of R85 are an
`Instr` or one of two named rejections; both rejections are the spec's one ILLEGAL (R88). -/

namespace Sys2Proof

/-- Why a word decodes to ILLEGAL (R88): op 0xE or 0xF, or a reserved bit of a defined opcode set. -/
inductive Illegal where
  | reservedOpcode
  | reservedBitSet
deriving DecidableEq, Repr

/-- One row of the opcode map of R84. -/
structure OpcodeRow where
  matchBits : Word
  mask      : Word
  /-- The command a matching word stands for, its fields read by R86 and R87. -/
  command   : Word → Instr

/-- `w[hi:lo]` with `len = hi - lo + 1` (R12). -/
def field (w : Word) (lo len : Nat) : BitVec len := w.extractLsb' lo len

/-- A field of a record of `width` bits, put with its bit 0 at bit `lo` (R12, R83). -/
def place (width lo : Nat) {len : Nat} (v : BitVec len) : BitVec width := v.setWidth width <<< lo

/-- A one-bit field (R83). -/
def placeBit (width lo : Nat) (v : Bool) : BitVec width := place width lo (BitVec.ofBool v)

/-- The opcode, bits [31:28] (R81). -/
def opcodeOf (w : Word) : BitVec 4 := field w 28 4

/-- INIT_SERVO's operands (R86). -/
def initServoOf (w : Word) : Instr :=
  .initServo (field w 25 3) (field w 23 2) (field w 20 3) (w.getLsbD 19) (field w 0 16)

/-- The opcode map, row by row (R84). -/
def opcodeRows : List OpcodeRow :=
  [ ⟨0x00000000#32, 0xFFFFFFFF#32, fun _ => .nop⟩,
    ⟨0x10000000#32, 0xF0070000#32, initServoOf⟩,
    ⟨0x20000000#32, 0xFFFFFFFF#32, fun _ => .initServos⟩,
    ⟨0x30000000#32, 0xFFFFFFFF#32, fun _ => .disarm⟩,
    ⟨0x40000000#32, 0xFFFFFFFE#32, fun w => .gieWr (w.getLsbD 0)⟩,
    ⟨0x50000000#32, 0xFFFFFFF0#32, fun w => .rdReg (field w 0 4)⟩,
    ⟨0x60000000#32, 0xFFFFFFF8#32, fun w => .rdCh (field w 0 3)⟩,
    ⟨0x70000000#32, 0xFFFFFFF0#32, fun w => .rdEv (w.getLsbD 3) (field w 0 3)⟩,
    ⟨0x80000000#32, 0xFFFFFFFC#32, fun w => .rdPort (field w 0 2)⟩,
    ⟨0x90000000#32, 0xFFFFFC00#32, fun w => .gpioSet (field w 8 2) (field w 0 8)⟩,
    ⟨0xA0000000#32, 0xFFFFFC00#32, fun w => .gpioClr (field w 8 2) (field w 0 8)⟩,
    ⟨0xB0000000#32, 0xFFFFFC00#32, fun w => .gpioTgl (field w 8 2) (field w 0 8)⟩,
    ⟨0xC0000000#32, 0xFFFFFFFF#32, fun _ => .extClaim⟩,
    ⟨0xD0000000#32, 0xFFFFFFFF#32, fun _ => .extRelease⟩ ]

/-- R84: "a word `w` is this command exactly when `(w AND mask) = match`". -/
def OpcodeRow.covers (r : OpcodeRow) (w : Word) : Bool := w &&& r.mask == r.matchBits

/-- The name of the rejection of a word no row covers (R88). -/
def whyIllegal (w : Word) : Illegal :=
  if opcodeOf w = 0xE#4 ∨ opcodeOf w = 0xF#4 then .reservedOpcode else .reservedBitSet

/-- The total decoder (R85): the first row that covers the word, or ILLEGAL. -/
def decode (w : Word) : Except Illegal Instr :=
  match opcodeRows.find? (·.covers w) with
  | some r => .ok (r.command w)
  | none => .error (whyIllegal w)

/-- The opcode in its place (R81). -/
def placeOp (op : BitVec 4) : Word := place 32 28 op

/-- The word of a command: its opcode and its fields in their places, every other bit 0 (R83, R84). -/
def encode : Instr → Word
  | .nop => placeOp 0x0
  | .initServo idx port pin rest pw =>
      placeOp 0x1 ||| place 32 25 idx ||| place 32 23 port ||| place 32 20 pin ||| placeBit 32 19 rest ||| place 32 0 pw
  | .initServos => placeOp 0x2
  | .disarm => placeOp 0x3
  | .gieWr v => placeOp 0x4 ||| placeBit 32 0 v
  | .rdReg r => placeOp 0x5 ||| place 32 0 r
  | .rdCh i => placeOp 0x6 ||| place 32 0 i
  | .rdEv s k => placeOp 0x7 ||| placeBit 32 3 s ||| place 32 0 k
  | .rdPort p => placeOp 0x8 ||| place 32 0 p
  | .gpioSet p m => placeOp 0x9 ||| place 32 8 p ||| place 32 0 m
  | .gpioClr p m => placeOp 0xA ||| place 32 8 p ||| place 32 0 m
  | .gpioTgl p m => placeOp 0xB ||| place 32 8 p ||| place 32 0 m
  | .extClaim => placeOp 0xC
  | .extRelease => placeOp 0xD

/-- The low `nbits` bits of the number `w` as a command word; the bits above are 0 (R80: every command is 32 bits). -/
def tableWord (nbits w : Nat) : Word := BitVec.ofNat 32 (w % 2 ^ nbits)

/-- The command the decoder reads from an opcode-table word, none where it answers ILLEGAL. -/
def decodeTableWord (nbits w : Nat) : Option Instr :=
  match decode (tableWord nbits w) with
  | .ok i => some i
  | .error _ => none

end Sys2Proof
end

