-- ==== Sys2Proof/Config.lean ====
section
/-! DEFINITION. What is fixed for one block but left open by the spec: the parameter FRAME_TICKS (R10) and the order in
which the agents' steps are offered (R11). Both are constants without a body: no proof can see a value of them. -/

namespace Sys2Proof

/-- One step the outside world offers (R11): a command word for HOST, a timer period for TICK, a run of the interrupt
handler for SERVICE. -/
inductive Event where
  | host (w : Word)
  | tick
  | service
deriving DecidableEq, Repr, Inhabited

/-- FRAME_TICKS - 2, any number 0..65533 (R10 gives the legal range 2..65535 and no value; log entry 5). -/
opaque Config.frameTicksAboveTwo : Fin 65534

/-- FRAME, the frame period in timer ticks (R10). -/
def Config.frameTicks : Nat := Config.frameTicksAboveTwo.val + 2

/-- The step the outside world offers as the `n`-th one past the end of `State.inputs` (R11: "Which enabled step is taken
next is not determined"). DESIGN CHOICE, safe: free value, log entry 1. -/
opaque Config.freeEvent : Nat → Event

/-- R10: FRAME_TICKS is an integer, 2 to 65535. -/
theorem Config.two_le_frameTicks : 2 ≤ Config.frameTicks := by
  unfold Config.frameTicks; omega

/-- R10: FRAME_TICKS is an integer, 2 to 65535. -/
theorem Config.frameTicks_le : Config.frameTicks ≤ 65535 := by
  unfold Config.frameTicks; omega

end Sys2Proof
end

