-- ==== Sys2Proof/Machine/State.lean ====
section
/-! DEFINITION. The state of the machine (spec/10_state.md): `Block` is the tuple of R20 and nothing else; `State` sets beside
it the two ends of the block's interface, the steps the outside world offers and the response word of the step just taken. -/

namespace Sys2Proof.Machine

/-- A slot of the Channel Registry (R21 to R25). -/
structure Channel where
  /-- VALID: the slot holds a registered channel (R22). -/
  valid : Bool
  /-- PORT (R23). -/
  port  : PortId
  /-- PIN (R23). -/
  pin   : PinId
  /-- REST, the level outside the pulse (R24). -/
  rest  : Level
  /-- PW, the pulse width in ticks (R25). -/
  pw    : Tick
deriving DecidableEq, Repr

/-- An entry of an event queue (R27). -/
structure Entry where
  /-- WRAP: this is the frame-wrap marker (R29). -/
  wrap  : Bool
  /-- PORT (R28). -/
  port  : PortId
  /-- PIN (R28). -/
  pin   : PinId
  /-- LEVEL, the level driven at TICK (R28). -/
  level : Level
  /-- TICK, the offset from tick 0 of the frame (R28). -/
  tick  : Tick
deriving DecidableEq, Repr

/-- PHASE (R35). -/
inductive Phase where
  /-- ACTIVE_PHASE, 0. -/
  | active
  /-- SCHEDULED_TOGGLE, 1. -/
  | scheduled
deriving DecidableEq, Repr

/-- TOWN, who owns the timer (R44); the value 3 is unreachable and has no constructor (93 U10; log entry 10). -/
inductive Owner where
  /-- FREE, 0. -/
  | free
  /-- SERVO, 1: this block, that is, armed. -/
  | servo
  /-- OTHER, 2: another subsystem. -/
  | other
deriving DecidableEq, Repr

/-- The empty registry slot of reset (R260). -/
def Channel.empty : Channel := ⟨false, 0, 0, false, 0⟩

/-- The all-zero queue entry of reset and of the places after the marker (R29, R135, R260). -/
def Entry.zero : Entry := ⟨false, 0, 0, false, 0⟩

/-- The complete state of the block (R20). -/
structure Block where
  /-- CH[0..5], the Channel Registry (R21). -/
  ch    : Vector Channel 6
  /-- EVQ[0..6], the active event queue (R27). -/
  evq   : Vector Entry 7
  /-- EVN, the number of meaningful entries of EVQ (R31). -/
  evn   : BitVec 3
  /-- SHQ[0..6], the shadow event queue (R32). -/
  shq   : Vector Entry 7
  /-- SHN, the number of meaningful entries of SHQ (R32). -/
  shn   : BitVec 3
  /-- PEND: SHQ waits for commit (R33). -/
  pend  : Bool
  /-- EVI, the current event index (R34). -/
  evi   : BitVec 3
  /-- PHASE (R35). -/
  phase : Phase
  /-- CNT, the free-running counter (R36). -/
  cnt   : Tick
  /-- OCR, the compare register (R37). -/
  ocr   : Tick
  /-- FBASE, the counter value of the frame's tick 0 (R38). -/
  fbase : Tick
  /-- RUN: the counter counts (R39). -/
  run   : Bool
  /-- OCIE, compare-match interrupt enable (R40). -/
  ocie  : Bool
  /-- OCF, the pending interrupt request (R41). -/
  ocf   : Bool
  /-- GIE, the interrupt-enable flag (R42). -/
  gie   : Bool
  /-- TOWN (R44). -/
  town  : Owner
  /-- OVR, the overrun counter (R45). -/
  ovr   : BitVec 16
  /-- FAULT, sticky (R46). -/
  fault : Bool
  /-- PORT[0..3], the output latches (R48). -/
  ports : Vector PortBits 4
deriving DecidableEq, Repr

/-- Every state element at its reset value (R260). -/
def Block.reset : Block where
  ch    := Vector.replicate 6 Channel.empty
  evq   := Vector.replicate 7 Entry.zero
  evn   := 0
  shq   := Vector.replicate 7 Entry.zero
  shn   := 0
  pend  := false
  evi   := 0
  phase := .active
  cnt   := 0
  ocr   := 0
  fbase := 0
  run   := false
  ocie  := false
  ocf   := false
  gie   := false
  town  := .free
  ovr   := 0
  fault := false
  ports := Vector.replicate 4 0

/-- The machine: the block, what its last step returned, and what the outside world offers next. -/
structure State where
  /-- The block's state, the tuple of R20. -/
  block     : Block
  /-- The response word the step just taken returned (R80); none after a TICK or SERVICE step. The model's own: log entry 4. -/
  response  : Option Word
  /-- The steps the outside world offers, next one first (R11). The model's own: log entry 1. -/
  inputs    : List Event
  /-- The number of the next free offer past the end of `inputs`. The model's own: log entry 1. -/
  freeIndex : Nat
deriving DecidableEq, Repr

/-- The machine right after reset (R260, R262); the three fields of the model's own as log entry 9 says. -/
def State.reset : State where
  block     := Block.reset
  response  := none
  inputs    := []
  freeIndex := 0

/-- Why a step stops the machine. -/
inductive Fault where
  /-- FAULT = 1: raised by every step and every command. "Once FAULT = 1 no rule of this spec says what the block does"
  (R46, 93 U1). Safe: the model stops where the spec constrains nothing (log entry 3). -/
  | timerMisused
  /-- A SERVICE step came to an EVI that names no entry of EVQ. Raised by SERVICE only, and only in states that break the queue
  invariant of R30, which no run reaches. Safe (log entry 7). -/
  | offQueue
deriving DecidableEq, Repr

/-- Why a command has no meaning. -/
inductive Refusal where
  /-- The command is not modelled yet: raised by a refused arm of `exec`. Safe. No arm of this model is refused. -/
  | notModelled (mnemonic : String)
deriving DecidableEq, Repr

end Sys2Proof.Machine
end

