-- ==== Sys2Proof/Machine/Ops.lean ====
section
/-! DEFINITION. The operations the commands and events share: the response word, the writes of groups of state elements, the
GPIO primitive, taking the interrupt, and the offers of the outside world. -/

namespace Sys2Proof.Machine

/-! ### Integers and words -/

/-- `sext_16(v)` (R13). -/
def sext16 (v : Tick) : Int := v.toInt

/-- `sat16(v + 1)` (R13, R45): one more, kept at 65535. -/
def satSucc16 (v : BitVec 16) : BitVec 16 := BitVec.ofNat 16 (min (v.toNat + 1) 65535)

/-- A parameter or sum reduced to 16 bits (R14). -/
def tick16 (n : Nat) : Tick := BitVec.ofNat 16 n

/-! ### Responses (R82) -/

/-- The status values a response can have (R82; the values 8..15 are never produced, 93 U9). -/
inductive Status where
  | ok | errIndex | errWidth | errCollision | errSchedule | errResource | errIllegal | errRange
deriving DecidableEq, Repr

/-- The code of a status (R82). -/
def Status.code : Status → BitVec 4
  | .ok => 0 | .errIndex => 1 | .errWidth => 2 | .errCollision => 3
  | .errSchedule => 4 | .errResource => 5 | .errIllegal => 6 | .errRange => 7

/-- The response word `{status[3:0], data[27:0]}` (R82). -/
def responseWord (st : Status) (d : Data) : Word := place 32 28 st.code ||| place 32 0 d

/-- What a HOST step comes to: the block after it and the response (R13 `respond`). -/
structure Reply where
  block  : Block
  status : Status
  data   : Data
deriving DecidableEq, Repr

/-- `respond(OK, 0)` with the block as written. -/
def done (b : Block) : Reply := ⟨b, .ok, 0⟩

/-- `respond(OK, data)`: a read that succeeded; no state element changes. -/
def readOut (b : Block) (d : Data) : Reply := ⟨b, .ok, d⟩

/-- `respond(ERR_x, 0)`: an error changes no state (R220). -/
def failed (b : Block) (st : Status) : Reply := ⟨b, st, 0⟩

/-! ### Writes of state elements -/

/-- Write slot `i` of the registry (R26). -/
def Block.setChannel (b : Block) (i : Fin 6) (c : Channel) : Block := { b with ch := b.ch.set i c }

/-- Write one output latch (R48). -/
def Block.setPort (b : Block) (p : PortId) (v : PortBits) : Block := { b with ports := b.ports.set p.toNat v p.isLt }

/-- Write the shadow queue and mark it pending (R32, R33). -/
def Block.setShadow (b : Block) (q : Vector Entry 7) (n : BitVec 3) : Block := { b with shq := q, shn := n, pend := true }

/-- The writes of arming (R180): tick 0 of a first frame, with its interrupt request pending. -/
def Block.arm (b : Block) (q : Vector Entry 7) (n : BitVec 3) : Block :=
  { b with evq := q, evn := n, pend := false, evi := 0, phase := .active, cnt := 0, fbase := 0, ocr := 0, ocf := true,
           run := true, ocie := true, town := .servo }

/-- The writes of disarming (R184). -/
def Block.disarm (b : Block) : Block :=
  { b with run := false, ocie := false, ocf := false, pend := false, town := .free }

/-- The commit of a pending shadow queue at the wrap (R155, R157). -/
def Block.commit (b : Block) : Block :=
  if b.pend then { b with evq := b.shq, evn := b.shn, pend := false } else b

/-! ### The output ports -/

/-- The level of pin `b` of port `p`, `PORT[p][b]` (R13, R48). -/
def pinLevel (ports : Vector PortBits 4) (p : PortId) (b : PinId) : Level :=
  (ports[p.toNat]'p.isLt).getLsbD b.toNat

/-- The mask with one bit set, `1 << b` in 8 bits (R152). -/
def pinMask (b : PinId) : PortBits := 1#8 <<< b.toNat

/-- `drive(p, b, level)` (R152): set or clear one pin of one latch. -/
def drive (ports : Vector PortBits 4) (p : PortId) (b : PinId) (level : Level) : Vector PortBits 4 :=
  let old := ports[p.toNat]'p.isLt
  ports.set p.toNat (if level then old ||| pinMask b else old &&& ~~~ pinMask b) p.isLt

/-! ### Taking the interrupt (R224, R227)

The one exceptional entry of the block. Nothing is saved and nothing is switched: there is no program counter, no stack, no
vector and no mode bit, GIE is not changed, and there is no return (R228). -/

/-- SERVICE is enabled (R154, R224): a request is pending, enabled and not masked. -/
def Block.interruptEnabled (b : Block) : Bool := b.ocf && b.ocie && b.gie

/-- Entry to the interrupt context: the request is cleared, nothing else (R155, R227). -/
def Block.takeInterrupt (b : Block) : Block := { b with ocf := false }

/-! ### Steps of the machine -/

/-- Every step but one stops at a faulted block: "Once FAULT = 1 no rule of this spec says what the block does" (R46, 93 U1).
The one step that sets FAULT itself still ends in its state (R206). DEDUCED, safe: log entry 3. -/
def unlessFaulted (s : State) (o : Host.Outcome State Fault Refusal) : Host.Outcome State Fault Refusal :=
  if s.block.fault then .fault .timerMisused else o

/-- The machine after a HOST step: the block as written and the response word (R80). -/
def State.answer (s : State) (r : Reply) : State :=
  { s with block := r.block, response := some (responseWord r.status r.data) }

/-- The machine after a TICK or SERVICE step: the block as written, no response word. -/
def State.silent (s : State) (b : Block) : State := { s with block := b, response := none }

/-- A HOST step (R11, R80). -/
def hostStep (s : State) (r : Reply) : Host.Outcome State Fault Refusal := unlessFaulted s (.next (s.answer r))

/-- The step the outside world offers next: the first of `inputs`, and past their end a free value (R11; log entry 1). -/
def State.nextEvent (s : State) : Event :=
  match s.inputs with
  | e :: _ => e
  | [] => Config.freeEvent s.freeIndex

/-- The machine with that offer used up. -/
def State.dropEvent (s : State) : State :=
  match s.inputs with
  | _ :: es => { s with inputs := es }
  | [] => { s with freeIndex := s.freeIndex + 1 }

/-- The HOST step of a word that decodes to ILLEGAL (R85, R88): no state change, ERR_ILLEGAL. -/
def illegalStep (s : State) : Host.Outcome State Fault Refusal := hostStep s (failed s.block .errIllegal)

end Sys2Proof.Machine
end

