-- ==== Sys2Proof/Machine/Operands.lean ====
section
/-! DEFINITION. The elements a command names by a small index (spec/20_memory.md R61, R63) and the records that reads return
(spec/30_encoding.md R89, R90). An index out of range gives none: the command then answers ERR_INDEX or ERR_RANGE. -/

namespace Sys2Proof.Machine

/-- CH[i] (R61: indices 0..5). -/
def Block.channel? (b : Block) (i : BitVec 3) : Option Channel := b.ch[i.toNat]?

/-- EVQ[k] or SHQ[k] (R61, R139: indices 0..6, `s = false` the active queue). -/
def Block.entry? (b : Block) (s : Bool) (k : BitVec 3) : Option Entry :=
  (if s then b.shq else b.evq)[k.toNat]?

/-- Entry `k` of a queue; the all-zero entry where there is no such place (R61 gives a queue the indices 0..6). -/
def entryAt (q : Vector Entry 7) (k : Nat) : Entry := q[k]?.getD Entry.zero

/-- The channel record (R89). -/
def channelRecord (c : Channel) : Data :=
  placeBit 28 22 c.valid ||| place 28 20 c.port ||| place 28 17 c.pin ||| placeBit 28 16 c.rest ||| place 28 0 c.pw

/-- The event record (R90). -/
def eventRecord (e : Entry) : Data :=
  placeBit 28 22 e.wrap ||| place 28 20 e.port ||| place 28 17 e.pin ||| placeBit 28 16 e.level ||| place 28 0 e.tick

/-- The record of a port (R91, R204: data bits [7:0]). -/
def portRecord (v : PortBits) : Data := place 28 0 v

/-- The register a number names (R66): 9..15 are reserved. -/
def regName? (r : BitVec 4) : Option RegName :=
  match r.toNat with
  | 0 => some .status
  | 1 => some .cnt
  | 2 => some .ocr
  | 3 => some .fbase
  | 4 => some .frame
  | 5 => some .schedPos
  | 6 => some .ovr
  | 7 => some .now
  | 8 => some .vmask
  | _ => none

/-- The number of a register (R66). -/
def regNumber : RegName → BitVec 4
  | .status => 0 | .cnt => 1 | .ocr => 2 | .fbase => 3 | .frame => 4
  | .schedPos => 5 | .ovr => 6 | .now => 7 | .vmask => 8

end Sys2Proof.Machine
end

