-- ==== Sys2Proof/Machine/Flags.lean ====
section
/-! DEFINITION. Everything computed from flags and counters: the compare match (R151), the missed-event test (R158), and the
derived registers of R43 with the layouts of spec/20_memory.md R66. -/

namespace Sys2Proof.Machine

/-- OCF after a TICK step that makes the counter `cnt` (R150, R151): set by the match, never cleared. -/
def ocfAfterTick (ocf : Bool) (cnt ocr : Tick) : Bool := ocf || cnt == ocr

/-- Is an entry due (R155, R17): its TICK is at most `now`. -/
def isDue (now : Int) (e : Entry) : Bool := decide ((e.tick.toNat : Int) ≤ now)

/-- Is a due entry a missed event (R158): its TICK is later than the offset the compare was programmed for. -/
def isMissed (arm : Int) (e : Entry) : Bool := decide (arm < (e.tick.toNat : Int))

/-- OVR after a SERVICE step (R155, R158). -/
def ovrAfter (ovr : BitVec 16) (missed : Bool) : BitVec 16 := if missed then satSucc16 ovr else ovr

/-- NOW = (CNT - FBASE) mod 65536, the frame tick (R43). -/
def Block.now (b : Block) : Tick := b.cnt - b.fbase

/-- The frame tick the compare register is programmed for, (OCR - FBASE) mod 65536 (R155). -/
def Block.armedFor (b : Block) : Tick := b.ocr - b.fbase

/-- The code of PHASE (R35). -/
def Phase.bit : Phase → BitVec 1
  | .active => 0
  | .scheduled => 1

/-- The code of TOWN (R44). -/
def Owner.bits : Owner → BitVec 2
  | .free => 0
  | .servo => 1
  | .other => 2

/-- STATUS (R66). -/
def Block.statusReg (b : Block) : Data :=
  placeBit 28 0 b.gie ||| placeBit 28 1 b.run ||| placeBit 28 2 b.ocie ||| placeBit 28 3 b.ocf ||| place 28 4 b.phase.bit |||
    placeBit 28 5 b.pend ||| place 28 6 b.town.bits ||| placeBit 28 8 b.fault ||| place 28 9 b.evi ||| place 28 12 b.evn |||
    place 28 15 b.shn

/-- SCHED_POS, the pair {EVI, OCR} read in one step (R43, R65, R66). -/
def Block.schedPosReg (b : Block) : Data := place 28 16 b.evi ||| place 28 0 b.ocr

/-- VMASK: bit i is CH[i].VALID (R66). -/
def Block.vmaskReg (b : Block) : Data :=
  placeBit 28 0 b.ch[0].valid ||| placeBit 28 1 b.ch[1].valid ||| placeBit 28 2 b.ch[2].valid |||
    placeBit 28 3 b.ch[3].valid ||| placeBit 28 4 b.ch[4].valid ||| placeBit 28 5 b.ch[5].valid

/-- The content of a register (R66); unlisted bits of the data field read 0. -/
def Block.readReg (frame : Nat) (b : Block) : RegName → Data
  | .status => b.statusReg
  | .cnt => place 28 0 b.cnt
  | .ocr => place 28 0 b.ocr
  | .fbase => place 28 0 b.fbase
  | .frame => place 28 0 (tick16 frame)
  | .schedPos => b.schedPosReg
  | .ovr => place 28 0 b.ovr
  | .now => place 28 0 b.now
  | .vmask => b.vmaskReg

end Sys2Proof.Machine
end

