-- ==== Sys2Proof/Machine/Schedule.lean ====
section
/-! DEFINITION. The Pulse Timing Engine (spec/41_pulse_timing_engine.md): BUILD, a pure function of a registry and FRAME, and
the command RD_EV. -/

namespace Sys2Proof.Machine

/-- What BUILD returns (R131). -/
inductive BuildResult where
  | empty
  | reject
  | built (q : Vector Entry 7) (n : BitVec 3)
deriving DecidableEq, Repr

/-- A registry (R21). -/
abbrev Registry := Vector Channel 6

/-- REG[i].PW as a number of ticks; a valid slot holds 1..32767 (R25; log entry 12). -/
def widthOf (reg : Registry) (i : Fin 6) : Nat := reg[i].pw.toNat

/-- The sort key (PW, index): slot `i` comes before slot `j` (R133). -/
def comesBefore (reg : Registry) (i j : Fin 6) : Bool :=
  decide (widthOf reg i < widthOf reg j ∨ (widthOf reg i = widthOf reg j ∧ i < j))

/-- Put a slot in its place among slots already in order (R133). -/
def insertSlot (reg : Registry) (i : Fin 6) : List (Fin 6) → List (Fin 6)
  | [] => [i]
  | j :: js => if comesBefore reg i j then i :: j :: js else j :: insertSlot reg i js

/-- The slots with VALID = 1, by ascending index (R131). -/
def validSlots (reg : Registry) : List (Fin 6) := [0, 1, 2, 3, 4, 5].filter fun i => reg[i].valid

/-- The list S of R131: the valid slots by ascending PW, ties by ascending index (R133). -/
def sortedSlots (reg : Registry) : List (Fin 6) := (validSlots reg).foldr (insertSlot reg) []

/-- The entry of a channel (R134): back to rest at the end of its own width, measured from tick 0 (R136). -/
def restEntry (c : Channel) : Entry := ⟨false, c.port, c.pin, c.rest, c.pw⟩

/-- The frame-wrap marker (R29, R134). -/
def wrapMarker (frame : Nat) : Entry := ⟨true, 0, 0, false, tick16 frame⟩

/-- Seven places, filled from a list, all-zero after its end (R135). -/
def queueOf (l : List Entry) : Vector Entry 7 := Vector.ofFn fun k => l.getD k.val Entry.zero

/-- The unbounded sum of the widths of some slots (R131, R132). -/
def totalWidth (reg : Registry) (s : List (Fin 6)) : Nat := (s.map (widthOf reg)).sum

/-- The width of the last slot of the order, the largest one (R131: REG[S[c-1]].PW). -/
def lastWidth (reg : Registry) (s : List (Fin 6)) : Nat := (s.getLast?.map (widthOf reg)).getD 0

/-- BUILD(REG) (R131): EMPTY, REJECT or the queue and its length. -/
def build (frame : Nat) (reg : Registry) : BuildResult :=
  let s := sortedSlots reg
  if s.isEmpty then .empty
  else if frame < totalWidth reg s then .reject
  else if frame ≤ lastWidth reg s then .reject
  else .built (queueOf (s.map (fun i => restEntry reg[i]) ++ [wrapMarker frame])) (BitVec.ofNat 3 (s.length + 1))

/-- RD_EV s, k (R139). -/
def rdEv (s : Bool) (k : BitVec 3) (b : Block) : Reply :=
  match b.entry? s k with
  | some e => readOut b (eventRecord e)
  | none => failed b .errRange

/-- The meaning of RD_EV (R139). -/
def execRdEv (sel : Bool) (k : BitVec 3) (s : State) : Host.Outcome State Fault Refusal :=
  hostStep s (rdEv sel k s.block)

end Sys2Proof.Machine
end

