-- ==== Sys2Proof/Machine/Control.lean ====
section
/-! DEFINITION. The Control API commands (spec/43_control_api.md): INIT_SERVOS, DISARM, GIE_WR, RD_REG, NOP. -/

namespace Sys2Proof.Machine

/-- INIT_SERVOS (R180), its checks in the order resource, empty, schedule (R181). -/
def initServos (frame : Nat) (b : Block) : Reply :=
  match b.town with
  | .other => failed b .errResource
  | .free =>
    match build frame b.ch with
    | .empty => done b
    | .reject => failed b .errSchedule
    | .built q n => done (b.arm q n)
  | .servo =>
    match build frame b.ch with
    | .empty => done b
    | .reject => failed b .errSchedule
    | .built q n => done (b.setShadow q n)

/-- DISARM (R184). -/
def disarm (b : Block) : Reply := done (if b.town = .servo then b.disarm else b)

/-- GIE_WR v (R186). -/
def gieWr (v : Bool) (b : Block) : Reply := done { b with gie := v }

/-- RD_REG r (R189). -/
def rdReg (frame : Nat) (r : BitVec 4) (b : Block) : Reply :=
  match regName? r with
  | some name => readOut b (b.readReg frame name)
  | none => failed b .errRange

/-- The meaning of NOP (R190). -/
def execNop (s : State) : Host.Outcome State Fault Refusal := hostStep s (done s.block)

/-- The meaning of INIT_SERVOS (R180). -/
def execInitServos (s : State) : Host.Outcome State Fault Refusal := hostStep s (initServos Config.frameTicks s.block)

/-- The meaning of DISARM (R184). -/
def execDisarm (s : State) : Host.Outcome State Fault Refusal := hostStep s (disarm s.block)

/-- The meaning of GIE_WR (R186). -/
def execGieWr (v : Bool) (s : State) : Host.Outcome State Fault Refusal := hostStep s (gieWr v s.block)

/-- The meaning of RD_REG (R189). -/
def execRdReg (r : BitVec 4) (s : State) : Host.Outcome State Fault Refusal :=
  hostStep s (rdReg Config.frameTicks r s.block)

end Sys2Proof.Machine
end

