-- ==== Sys2Proof/Machine/Gpio.lean ====
section
/-! DEFINITION. The GPIO primitive as the host may use it (spec/44_gpio_and_timer_ownership.md R200 to R205). -/

namespace Sys2Proof.Machine

/-- The latch `p` (R48). -/
def Block.portOf (b : Block) (p : PortId) : PortBits := b.ports[p.toNat]'p.isLt

/-- GPIO_SET p, m (R201). -/
def gpioSet (p : PortId) (m : PortBits) (b : Block) : Reply := done (b.setPort p (b.portOf p ||| m))

/-- GPIO_CLR p, m (R202). -/
def gpioClr (p : PortId) (m : PortBits) (b : Block) : Reply := done (b.setPort p (b.portOf p &&& ~~~ m))

/-- GPIO_TGL p, m (R203). -/
def gpioTgl (p : PortId) (m : PortBits) (b : Block) : Reply := done (b.setPort p (b.portOf p ^^^ m))

/-- RD_PORT p (R204). -/
def rdPort (p : PortId) (b : Block) : Reply := readOut b (portRecord (b.portOf p))

/-- The meaning of GPIO_SET (R201). -/
def execGpioSet (p : PortId) (m : PortBits) (s : State) : Host.Outcome State Fault Refusal := hostStep s (gpioSet p m s.block)

/-- The meaning of GPIO_CLR (R202). -/
def execGpioClr (p : PortId) (m : PortBits) (s : State) : Host.Outcome State Fault Refusal := hostStep s (gpioClr p m s.block)

/-- The meaning of GPIO_TGL (R203). -/
def execGpioTgl (p : PortId) (m : PortBits) (s : State) : Host.Outcome State Fault Refusal := hostStep s (gpioTgl p m s.block)

/-- The meaning of RD_PORT (R204). -/
def execRdPort (p : PortId) (s : State) : Host.Outcome State Fault Refusal := hostStep s (rdPort p s.block)

end Sys2Proof.Machine
end

