-- ==== Sys2Proof/Machine/Ownership.lean ====
section
/-! DEFINITION. Timer ownership (spec/44_gpio_and_timer_ownership.md R206 to R208): EXT_CLAIM and EXT_RELEASE. -/

namespace Sys2Proof.Machine

/-- EXT_CLAIM (R206): while armed it is the source's undefined behaviour, and sets FAULT. -/
def extClaim (b : Block) : Reply :=
  match b.town with
  | .free => done { b with town := .other }
  | .other => done b
  | .servo => failed { b with fault := true } .errResource

/-- EXT_RELEASE (R207). -/
def extRelease (b : Block) : Reply :=
  match b.town with
  | .other => done { b with town := .free }
  | .free => done b
  | .servo => done b

/-- The meaning of EXT_CLAIM (R206). -/
def execExtClaim (s : State) : Host.Outcome State Fault Refusal := hostStep s (extClaim s.block)

/-- The meaning of EXT_RELEASE (R207). -/
def execExtRelease (s : State) : Host.Outcome State Fault Refusal := hostStep s (extRelease s.block)

end Sys2Proof.Machine
end

