-- ==== Sys2Proof/Machine/Registry.lean ====
section
/-! DEFINITION. The Channel Registry commands (spec/40_channel_registry.md): INIT_SERVO and RD_CH. -/

namespace Sys2Proof.Machine

/-- Another valid slot already has this (port, pin) pair (R110 check 3, R112). -/
abbrev Collides (reg : Registry) (idx : Fin 6) (port : PortId) (pin : PinId) : Prop :=
  ∃ j : Fin 6, j ≠ idx ∧ reg[j].valid = true ∧ reg[j].port = port ∧ reg[j].pin = pin

/-- Write a slot, and when armed rebuild into the shadow queue in the same step (R110, R114). BUILD of a registry with a valid
slot is never EMPTY (`Laws.build_ne_empty`), so the middle arm is never taken (log entry 12). -/
def register (frame : Nat) (idx : Fin 6) (c : Channel) (b : Block) : Reply :=
  if b.town = .servo then
    match build frame (b.ch.set idx c) with
    | .reject => failed b .errSchedule
    | .empty => done (b.setChannel idx c)
    | .built q n => done ((b.setShadow q n).setChannel idx c)
  else done (b.setChannel idx c)

/-- INIT_SERVO (R110), its checks in the order index, width, collision, schedule (R111). -/
def initServo (frame : Nat) (idx : BitVec 3) (port : PortId) (pin : PinId) (rest : Level) (pw : Tick) (b : Block) : Reply :=
  if h : idx.toNat < 6 then
    if sext16 pw ≤ 0 then failed b .errWidth
    else if Collides b.ch ⟨idx.toNat, h⟩ port pin then failed b .errCollision
    else register frame ⟨idx.toNat, h⟩ ⟨true, port, pin, rest, pw⟩ b
  else failed b .errIndex

/-- RD_CH i (R116). -/
def rdCh (i : BitVec 3) (b : Block) : Reply :=
  match b.channel? i with
  | some c => readOut b (channelRecord c)
  | none => failed b .errRange

/-- The meaning of INIT_SERVO (R110). -/
def execInitServo (idx : BitVec 3) (port : PortId) (pin : PinId) (rest : Level) (pw : Tick) (s : State) :
    Host.Outcome State Fault Refusal :=
  hostStep s (initServo Config.frameTicks idx port pin rest pw s.block)

/-- The meaning of RD_CH (R116). -/
def execRdCh (i : BitVec 3) (s : State) : Host.Outcome State Fault Refusal := hostStep s (rdCh i s.block)

end Sys2Proof.Machine
end

