-- ==== Sys2Proof/Machine/Dispatch.lean ====
section
/-! DEFINITION. The one dispatch: each host command of R84 to its meaning. -/

namespace Sys2Proof.Machine

def exec (i : Instr) (s : State) : Host.Outcome State Fault Refusal :=
  match i with
  | .nop => Sys2Proof.Machine.execNop s
  | .initServo idx port pin rest pw => Sys2Proof.Machine.execInitServo idx port pin rest pw s
  | .initServos => Sys2Proof.Machine.execInitServos s
  | .disarm => Sys2Proof.Machine.execDisarm s
  | .gieWr v => Sys2Proof.Machine.execGieWr v s
  | .rdReg r => Sys2Proof.Machine.execRdReg r s
  | .rdCh k => Sys2Proof.Machine.execRdCh k s
  | .rdEv sel k => Sys2Proof.Machine.execRdEv sel k s
  | .rdPort p => Sys2Proof.Machine.execRdPort p s
  | .gpioSet p m => Sys2Proof.Machine.execGpioSet p m s
  | .gpioClr p m => Sys2Proof.Machine.execGpioClr p m s
  | .gpioTgl p m => Sys2Proof.Machine.execGpioTgl p m s
  | .extClaim => Sys2Proof.Machine.execExtClaim s
  | .extRelease => Sys2Proof.Machine.execExtRelease s

end Sys2Proof.Machine
end

