-- ==== Sys2Proof/Machine/Sequencer.lean ====
section
/-! DEFINITION. The Timer ISR Driver (spec/42_timer_isr_driver.md): the events TICK and SERVICE, which have no encoding. -/

namespace Sys2Proof.Machine

/-! ### TICK -/

/-- TICK, when enabled (R150, R151). -/
def tick (b : Block) : Block := { b with cnt := b.cnt + 1, ocf := ocfAfterTick b.ocf (b.cnt + 1) b.ocr }

/-! ### SERVICE -/

/-- The entries do_active and the sequencer walk over: EVQ[0] to EVQ[EVN - 2] (R153). -/
def Block.scheduled (b : Block) : List Entry := b.evq.toList.take (b.evn.toNat - 1)

/-- `do_active()` (R153): drive every pin of the active queue to its active level, in queue order. -/
def doActive (b : Block) : Block :=
  { b with ports := b.scheduled.foldl (fun ports e => drive ports e.port e.pin (!e.level)) b.ports }

/-- A SERVICE step under way: the block, the unbounded integers `now` and `arm`, and whether an event was missed (R155). -/
structure Sweep where
  block  : Block
  now    : Int
  arm    : Int
  missed : Bool
deriving DecidableEq, Repr

/-- The first service after arming: the initial drive, then SCHEDULED_TOGGLE (R155, R160). -/
def enterFrame (b : Block) : Block :=
  match b.phase with
  | .active => { doActive b with phase := .scheduled }
  | .scheduled => b

/-- Executing a non-wrap entry (R155, R156). -/
def applyRest (e : Entry) (w : Sweep) : Sweep :=
  { w with block := { w.block with ports := drive w.block.ports e.port e.pin e.level, evi := w.block.evi + 1 } }

/-- Executing the frame-wrap marker (R155, R157): the base moves on by FRAME, a pending queue is committed, and the new frame's
active drive is done in the same step. -/
def applyWrap (frame : Nat) (w : Sweep) : Sweep :=
  { w with
    block := enterFrame { Block.commit { w.block with fbase := w.block.fbase + tick16 frame } with evi := 0, phase := .active }
    now   := w.now - frame
    arm   := w.arm - frame }

/-- Executing a due entry (R155), with its missed-event test (R158). -/
def applyDue (frame : Nat) (e : Entry) (w : Sweep) : Sweep :=
  let w := { w with missed := w.missed || isMissed w.arm e }
  if e.wrap then applyWrap frame w else applyRest e w

/-- The loop of R155: execute due entries until the next one lies in the future. None only where EVI names no entry of EVQ
(log entry 7), or the bound on the passes is used up, which `Laws.serviceLoop_completes` excludes for the bound of `service`. -/
def serviceLoop (frame : Nat) : Nat → Sweep → Option Sweep
  | 0, _ => none
  | n + 1, w =>
    match w.block.evq[w.block.evi.toNat]? with
    | none => none
    | some e => if isDue w.now e then serviceLoop frame n (applyDue frame e w) else some w

/-- More passes than the loop can make from a frame tick `now` (R155: "The loop ends"). -/
def passBound (now : Tick) : Nat := now.toNat * 8 + 9

/-- The end of the step (R155, R159): the compare register gets the next entry's absolute tick, and OVR counts (R158). -/
def finishService (w : Sweep) : Block :=
  { w.block with
    ocr := w.block.fbase + (entryAt w.block.evq w.block.evi.toNat).tick
    ovr := ovrAfter w.block.ovr w.missed }

/-- The sweep at the start of the step: OCF cleared, `now` and `arm` read, the initial drive done if it is due (R155). -/
def startService (b : Block) : Sweep :=
  ⟨enterFrame b.takeInterrupt, b.now.toNat, b.armedFor.toNat, false⟩

/-- SERVICE, when enabled (R155). -/
def service (frame : Nat) (b : Block) : Option Block :=
  (serviceLoop frame (passBound b.now) (startService b)).map finishService

/-! ### The two events as steps of the machine -/

/-- A TICK step; where RUN = 0 it is not enabled and the offer changes nothing (R150; log entry 2). -/
def tickStep (s : State) : Host.Outcome State Fault Refusal :=
  unlessFaulted s (.next (s.silent (if s.block.run then tick s.block else s.block)))

/-- A SERVICE step; where it is not enabled the offer changes nothing (R154; log entry 2). -/
def serviceStep (s : State) : Host.Outcome State Fault Refusal :=
  unlessFaulted s <|
    if s.block.interruptEnabled then
      match service Config.frameTicks s.block with
      | some b => .next (s.silent b)
      | none => .fault .offQueue
    else .next (s.silent s.block)

end Sys2Proof.Machine
end

