-- ==== Sys2Proof/Machine/Step.lean ====
section
/-! DEFINITION. One step of the machine: the next step the outside world offers, taken by the agent it is for (R11). -/

namespace Sys2Proof.Machine

/-- A HOST step (R85): the command the word decodes to, or ERR_ILLEGAL. -/
def commandStep (w : Word) (s : State) : Host.Outcome State Fault Refusal :=
  match decode w with
  | .ok i => exec i s
  | .error _ => illegalStep s

/-- One step (R11, R69): take the next offer and let its agent step. -/
def step (s : State) : Host.Outcome State Fault Refusal :=
  match s.nextEvent with
  | .host w => commandStep w s.dropEvent
  | .tick => tickStep s.dropEvent
  | .service => serviceStep s.dropEvent

/-- `s` with a command word offered first, so that the very next step is the HOST step of that word (log entry 8). -/
def State.withFetchWord (s : State) (nbits w : Nat) : State :=
  { s with inputs := .host (tableWord nbits w) :: s.inputs }

end Sys2Proof.Machine
end

