-- ==== Sys2Proof/Assembler.lean ====
section
/-! DEFINITION. The lines of a program as spec/30_encoding.md R92 and R93 write them: operands are numbers as written, not yet
fields of a word. `WellFormed` says which lines are legal; `Machine/Assemble.lean` says what each stands for. -/

namespace Sys2Proof

/-- One line of a program (R92), the pseudo-commands of R93 and the two event lines among them. -/
inductive Line where
  | nop
  | initServo (idx port pin rest : Nat) (pw : Int)
  | initServos
  | disarm
  | gieWr (v : Nat)
  | rdReg (r : Nat)
  /-- `rd_reg` with the register's name in place of its number (R92). -/
  | rdRegNamed (name : RegName)
  | rdCh (i : Nat)
  | rdEv (s k : Nat)
  | rdPort (p : Nat)
  | gpioSet (p m : Nat)
  | gpioClr (p m : Nat)
  | gpioTgl (p m : Nat)
  | extClaim
  | extRelease
  /-- Pseudo-command (R93). -/
  | sei
  /-- Pseudo-command (R93). -/
  | cli
  /-- Pseudo-command (R93). -/
  | rdSh (k : Nat)
  /-- Pseudo-command (R93). -/
  | rdStatus
  /-- Pseudo-command (R93). -/
  | rdSchedPos
  /-- `tick n`: n TICK steps, no command (R92). -/
  | tick (n : Nat)
  /-- `service`: one SERVICE step, no command (R92). -/
  | service
deriving DecidableEq, Repr

end Sys2Proof
end

