-- ==== Sys2Proof/WellFormed.lean ====
section
/-! DEFINITION. Which terms stand for something the block accepts. An `Instr` carries its operands at exactly the widths of
R83, so there is nothing left to check in one; a written `Line` (R92) carries plain numbers, and each must fit the field that
R86 or R87 gives it. -/

namespace Sys2Proof

/-- Does a written number fit an unsigned field of `width` bits (R86, R87: "all unsigned, none extended")? -/
def fitsField (width n : Nat) : Bool := decide (n < 2 ^ width)

/-- Does a written pulse width lie in the range sext_16 reads (R86: -32768..32767)? DESIGN CHOICE, safe: log entry 11. -/
def fitsWidth (pw : Int) : Bool := decide (-32768 ≤ pw) && decide (pw ≤ 32767)

/-- Every operand of a line fits its field (R86, R87, R92, R93). -/
def Line.wellFormed : Line → Bool
  | .initServo idx port pin rest pw =>
      fitsField 3 idx && fitsField 2 port && fitsField 3 pin && fitsField 1 rest && fitsWidth pw
  | .gieWr v => fitsField 1 v
  | .rdReg r => fitsField 4 r
  | .rdCh i => fitsField 3 i
  | .rdEv s k => fitsField 1 s && fitsField 3 k
  | .rdPort p => fitsField 2 p
  | .gpioSet p m => fitsField 2 p && fitsField 8 m
  | .gpioClr p m => fitsField 2 p && fitsField 8 m
  | .gpioTgl p m => fitsField 2 p && fitsField 8 m
  | .rdSh k => fitsField 3 k
  | .nop | .initServos | .disarm | .rdRegNamed _ | .extClaim | .extRelease | .sei | .cli | .rdStatus | .rdSchedPos
  | .tick _ | .service => true

end Sys2Proof
end

