-- ==== Sys2Proof/Machine/Assemble.lean ====
section
/-! DEFINITION. What a written line stands for (spec/30_encoding.md R92, R93): the steps the outside world offers, in order. -/

namespace Sys2Proof.Machine

/-- The bit a written 0 or 1 stands for. -/
def writtenBit (n : Nat) : Bool := n == 1

/-- The command a line is written for (R92), the pseudo-commands expanded (R93); none for the two event lines. -/
def commandOf : Line → Option Instr
  | .nop => some .nop
  | .initServo idx port pin rest pw =>
      some (.initServo (BitVec.ofNat 3 idx) (BitVec.ofNat 2 port) (BitVec.ofNat 3 pin) (writtenBit rest) (BitVec.ofInt 16 pw))
  | .initServos => some .initServos
  | .disarm => some .disarm
  | .gieWr v => some (.gieWr (writtenBit v))
  | .rdReg r => some (.rdReg (BitVec.ofNat 4 r))
  | .rdRegNamed name => some (.rdReg (regNumber name))
  | .rdCh i => some (.rdCh (BitVec.ofNat 3 i))
  | .rdEv s k => some (.rdEv (writtenBit s) (BitVec.ofNat 3 k))
  | .rdPort p => some (.rdPort (BitVec.ofNat 2 p))
  | .gpioSet p m => some (.gpioSet (BitVec.ofNat 2 p) (BitVec.ofNat 8 m))
  | .gpioClr p m => some (.gpioClr (BitVec.ofNat 2 p) (BitVec.ofNat 8 m))
  | .gpioTgl p m => some (.gpioTgl (BitVec.ofNat 2 p) (BitVec.ofNat 8 m))
  | .extClaim => some .extClaim
  | .extRelease => some .extRelease
  | .sei => some (.gieWr true)
  | .cli => some (.gieWr false)
  | .rdSh k => some (.rdEv true (BitVec.ofNat 3 k))
  | .rdStatus => some (.rdReg 0)
  | .rdSchedPos => some (.rdReg 5)
  | .tick _ => none
  | .service => none

/-- The steps a line offers (R92: `tick n` is n TICK steps, `service` one SERVICE step, any other line one command word). -/
def eventsOf (l : Line) : List Event :=
  match l with
  | .tick n => List.replicate n .tick
  | .service => [.service]
  | l => ((commandOf l).map fun i => Event.host (encode i)).toList

/-- The steps a program offers (R92); none where a written operand does not fit its field (R86, R87; log entry 11). -/
def assemble (p : List Line) : Option (List Event) :=
  if p.all Line.wellFormed then some (p.flatMap eventsOf) else none

end Sys2Proof.Machine
end

