-- ==== Sys2Proof/Machine/Text.lean ====
section
/-! DEFINITION. The written form of a program (spec/30_encoding.md R92, R93): from the characters of its lines to `Line`s, and
from there to the steps it offers. What R92 leaves open of the form is log entry 11. -/

namespace Sys2Proof.Machine

/-- A blank between the parts of a line. -/
def isBlank (c : Char) : Bool := c == ' ' || c == '\t' || c == '\r'

/-- A text without the blanks at its two ends. -/
def trim (cs : List Char) : List Char := ((cs.dropWhile isBlank).reverse.dropWhile isBlank).reverse

/-- The parts of a text between the separators. -/
def splitAt (sep : Char) : List Char → List (List Char)
  | [] => [[]]
  | c :: cs =>
    if c == sep then [] :: splitAt sep cs
    else
      match splitAt sep cs with
      | [] => [[c]]
      | part :: parts => (c :: part) :: parts

/-- The value of a digit, 0..15. -/
def digit? (c : Char) : Option Nat :=
  if '0' ≤ c ∧ c ≤ '9' then some (c.toNat - '0'.toNat)
  else if 'a' ≤ c ∧ c ≤ 'f' then some (c.toNat - 'a'.toNat + 10)
  else if 'A' ≤ c ∧ c ≤ 'F' then some (c.toNat - 'A'.toNat + 10)
  else none

/-- The number some digits of a base write after `n` has been read. -/
def digits? (base : Nat) : Nat → List Char → Option Nat
  | n, [] => some n
  | n, c :: cs =>
    match digit? c with
    | some d => if d < base then digits? base (n * base + d) cs else none
    | none => none

/-- A number with at least one digit. -/
def number? (base : Nat) (cs : List Char) : Option Nat := if cs.isEmpty then none else digits? base 0 cs

/-- An operand in decimal (R92). -/
def natural? (cs : List Char) : Option Nat := number? 10 cs

/-- A mask, in decimal or in `0x` hexadecimal (R92). -/
def mask? : List Char → Option Nat
  | '0' :: 'x' :: cs => number? 16 cs
  | cs => number? 10 cs

/-- A pulse width, which may be written negative (R92). -/
def width? : List Char → Option Int
  | '-' :: cs => (number? 10 cs).map fun n => -(n : Int)
  | cs => (number? 10 cs).map fun n => (n : Int)

/-- The names RD_REG takes in place of a number (R92). -/
def regNamed? (cs : List Char) : Option RegName :=
  match String.ofList cs with
  | "status" => some .status
  | "cnt" => some .cnt
  | "ocr" => some .ocr
  | "fbase" => some .fbase
  | "frame" => some .frame
  | "sched_pos" => some .schedPos
  | "ovr" => some .ovr
  | "now" => some .now
  | "vmask" => some .vmask
  | _ => none

/-- `rd_reg` of a name or a number (R92). -/
def readOfRegister? (cs : List Char) : Option Line :=
  match regNamed? cs with
  | some name => some (.rdRegNamed name)
  | none => (natural? cs).map .rdReg

/-- A line without operands (R92, R93). -/
def bareLine? (name : String) : Option Line :=
  match name with
  | "nop" => some .nop
  | "init_servos" => some .initServos
  | "disarm" => some .disarm
  | "ext_claim" => some .extClaim
  | "ext_release" => some .extRelease
  | "sei" => some .sei
  | "cli" => some .cli
  | "rd_status" => some .rdStatus
  | "rd_sched_pos" => some .rdSchedPos
  | "service" => some .service
  | _ => none

/-- A line of one operand (R92, R93). -/
def unaryLine? (name : String) (a : List Char) : Option Line :=
  match name with
  | "gie_wr" => (natural? a).map .gieWr
  | "rd_reg" => readOfRegister? a
  | "rd_ch" => (natural? a).map .rdCh
  | "rd_port" => (natural? a).map .rdPort
  | "rd_sh" => (natural? a).map .rdSh
  | "tick" => (natural? a).map .tick
  | _ => none

/-- A line of two operands (R92). -/
def binaryLine? (name : String) (a b : List Char) : Option Line :=
  match name with
  | "rd_ev" => do return .rdEv (← natural? a) (← natural? b)
  | "gpio_set" => do return .gpioSet (← natural? a) (← mask? b)
  | "gpio_clr" => do return .gpioClr (← natural? a) (← mask? b)
  | "gpio_tgl" => do return .gpioTgl (← natural? a) (← mask? b)
  | _ => none

/-- A line's mnemonic with its operands, most significant field first (R92). -/
def lineOf? (name : String) : List (List Char) → Option Line
  | [] => bareLine? name
  | [a] => unaryLine? name a
  | [a, b] => binaryLine? name a b
  | [a, b, c, d, e] =>
    if name = "init_servo" then
      do return .initServo (← natural? a) (← natural? b) (← natural? c) (← natural? d) (← width? e)
    else none
  | _ => none

/-- The operands of a line, separated by commas; none where nothing follows the mnemonic (R92). -/
def operandsOf (cs : List Char) : List (List Char) := if cs.isEmpty then [] else (splitAt ',' cs).map trim

/-- One written line: an empty list where it holds only blanks or a comment, none where it is no line of R92 or R93. -/
def parseLine (cs : List Char) : Option (List Line) :=
  let body := trim (cs.takeWhile fun c => c != ';')
  if body.isEmpty then some []
  else
    (lineOf? (String.ofList (body.takeWhile fun c => !isBlank c)) (operandsOf (trim (body.dropWhile fun c => !isBlank c)))).map
      fun l => [l]

/-- The lines of a program; none where one of them is no line. -/
def parseLines : List (List Char) → Option (List Line)
  | [] => some []
  | cs :: rest => do return (← parseLine cs) ++ (← parseLines rest)

/-- A written program (R92). -/
def parseProgram (text : String) : Option (List Line) := parseLines (splitAt '\n' text.toList)

/-- The steps a written program offers; none where it is not well formed. -/
def assembleText (text : String) : Option (List Event) := (parseProgram text).bind assemble

end Sys2Proof.Machine
end

