-- ==== Sys2Proof/Safety.lean ====
section
/-! DEFINITION. The terms in which claims are stated: what a command answers, which step is offered, and what a sound block is
(the invariants of spec/10_state.md R23, R25, R30, R34, R47 and of the sequencer, spec/95_test_vectors.md Q3 to Q5). -/

namespace Sys2Proof.Machine

/-! ### What a step does -/

/-- No rule speaks of a block with FAULT = 1 (R46): this is the premise under which the rules hold. -/
abbrev State.Live (s : State) : Prop := s.block.fault = false

/-- The HOST step of `i` leaves the block `b` and returns the response word `w`; nothing else of the machine changes. -/
def Replies (i : Instr) (s : State) (b : Block) (w : Word) : Prop :=
  exec i s = .next { s with block := b, response := some w }

/-- The word of `i` is one of the row (match, mask) of R84, and decodes to `i` with every operand. -/
def EncodedBy (i : Instr) (matchBits mask : Word) : Prop := encode i &&& mask = matchBits ∧ decode (encode i) = .ok i

/-- The step offered next is the HOST step of a word that decodes to `i`. -/
def State.OffersCommand (s : State) (i : Instr) : Prop := ∃ w, s.nextEvent = .host w ∧ decode w = .ok i

/-- The status field of a response word (R82). -/
def statusOf (w : Word) : BitVec 4 := field w 28 4

/-- The data field of a response word (R82). -/
def dataOf (w : Word) : Data := field w 0 28

/-! ### Sound blocks -/

/-- The registry as INIT_SERVO keeps it: widths 1..32767 (R25) and no pin registered twice (R23). -/
structure RegistryOk (reg : Registry) : Prop where
  width_pos  : ∀ i : Fin 6, reg[i].valid = true → 1 ≤ reg[i].pw.toNat
  width_le   : ∀ i : Fin 6, reg[i].valid = true → reg[i].pw.toNat ≤ 32767
  pins_apart : ∀ i j : Fin 6, i ≠ j → reg[i].valid = true → reg[j].valid = true →
    ¬(reg[i].port = reg[j].port ∧ reg[i].pin = reg[j].pin)

/-- The queue invariant (R30) of a queue of `n` meaningful entries. -/
structure QueueOk (frame : Nat) (q : Vector Entry 7) (n : Nat) : Prop where
  two_le      : 2 ≤ n
  le_seven    : n ≤ 7
  marker_wrap : (entryAt q (n - 1)).wrap = true
  marker_tick : (entryAt q (n - 1)).tick.toNat = frame
  rest_wrap   : ∀ k, k < n - 1 → (entryAt q k).wrap = false
  tick_pos    : ∀ k, k < n - 1 → 1 ≤ (entryAt q k).tick.toNat
  tick_below  : ∀ k, k < n - 1 → (entryAt q k).tick.toNat < frame
  tick_mono   : ∀ j k, j ≤ k → k < n - 1 → (entryAt q j).tick.toNat ≤ (entryAt q k).tick.toNat
  pins_apart  : ∀ j k, j < k → k < n - 1 →
    ¬((entryAt q j).port = (entryAt q k).port ∧ (entryAt q j).pin = (entryAt q k).pin)

/-- The invariants of the block's data: registry (R23, R25), queues (R30), and the control state (R34, R47). -/
structure BlockOk (frame : Nat) (b : Block) : Prop where
  registry  : RegistryOk b.ch
  active    : 0 < b.evn.toNat → QueueOk frame b.evq b.evn.toNat
  shadow    : 0 < b.shn.toNat → QueueOk frame b.shq b.shn.toNat
  run_ocie  : b.run = b.ocie
  run_town  : b.run = decide (b.town = .servo)
  ocf_run   : b.ocf = true → b.run = true
  pend_run  : b.pend = true → b.run = true
  run_evn   : b.run = true → 2 ≤ b.evn.toNat
  run_evi   : b.run = true → b.evi.toNat ≤ b.evn.toNat - 1
  pend_shn  : b.pend = true → 2 ≤ b.shn.toNat

/-- The entry the sequencer waits for, EVQ[EVI] (R34). -/
def Block.awaited (b : Block) : Entry := entryAt b.evq b.evi.toNat

/-- The sequencer between steps (R35, R37, R47, Q3): armed and not yet served, it waits at tick 0 with its request pending; once
served, the compare register is programmed for the awaited entry, and while no request is pending that entry lies ahead. -/
structure SequencerOk (b : Block) : Prop where
  first    : b.run = true → b.phase = .active → b.ocf = true ∧ b.evi = 0 ∧ b.ocr = b.fbase
  aimed    : b.run = true → b.phase = .scheduled → b.armedFor = b.awaited.tick
  ahead    : b.run = true → b.ocf = false → b.now.toNat < b.awaited.tick.toNat

/-- A sound block: every invariant that every step keeps. -/
structure BlockSound (frame : Nat) (b : Block) : Prop where
  data      : BlockOk frame b
  sequencer : SequencerOk b

/-- Where every pin of the running schedule stands (Q4, Q5): at the complement of its rest level until its entry has been
executed, at its rest level from then on; and with no request pending the executed entries are those whose tick has passed. -/
structure PulsesOk (b : Block) : Prop where
  executed : b.run = true → b.phase = .scheduled → ∀ k, k < b.evi.toNat →
    pinLevel b.ports (entryAt b.evq k).port (entryAt b.evq k).pin = (entryAt b.evq k).level
  waiting  : b.run = true → b.phase = .scheduled → ∀ k, b.evi.toNat ≤ k → k < b.evn.toNat - 1 →
    pinLevel b.ports (entryAt b.evq k).port (entryAt b.evq k).pin = !(entryAt b.evq k).level
  passed   : b.run = true → b.phase = .scheduled → ∀ k, k < b.evi.toNat → (entryAt b.evq k).tick.toNat ≤ b.now.toNat
  pending  : b.run = true → b.phase = .scheduled → b.ocf = true → b.awaited.tick.toNat ≤ b.now.toNat

/-- The pin (p, c) is one the active queue drives (R30). -/
def Block.Drives (b : Block) (p : PortId) (c : PinId) : Prop :=
  ∃ k, k < b.evn.toNat - 1 ∧ (entryAt b.evq k).port = p ∧ (entryAt b.evq k).pin = c

/-- The host writes no pin the active queue drives in this step (R205, R270). -/
def State.SparesPins (s : State) : Prop :=
  ∀ p m, s.OffersCommand (.gpioSet p m) ∨ s.OffersCommand (.gpioClr p m) ∨ s.OffersCommand (.gpioTgl p m) →
    ∀ c, s.block.Drives p c → m.getLsbD c.toNat = false

/-- The latency of the pending request so far, in ticks (R17): now minus the offset OCR was programmed for. -/
def Block.latency (b : Block) : Nat := (b.cnt - b.ocr).toNat

end Sys2Proof.Machine
end

