-- ==== Sys2Proof/Certificates/Slice0/Obligations.lean ====
section
/-! DEFINITION. The statements for the provers. Each docstring says which rule of spec/ it formalises; `OBLIGATIONS.json` lists
them. `Replies i s b w` says that `exec i s` ANSWERS A NEXT STATE: the block `b`, the response word `w`, all else as in `s`. -/

open Sys2Proof Sys2Proof.Machine

/-! ### Encoding -/

/-- Words written out from the encodings of R94 and spec/95_test_vectors.md 2.1 decode to the commands they stand for. -/
def Obligations.WrittenOutWordsDecode : Prop :=
  decode 0x00000000#32 = .ok .nop ∧
  decode 0x10A00023#32 = .ok (.initServo 0 1 2 false 35) ∧
  decode 0x12D00050#32 = .ok (.initServo 1 1 5 false 80) ∧
  decode 0x1BF80BB8#32 = .ok (.initServo 5 3 7 true 3000) ∧
  decode 0x1400FFFF#32 = .ok (.initServo 2 0 0 false 0xFFFF#16) ∧
  decode 0x20000000#32 = .ok .initServos ∧
  decode 0x30000000#32 = .ok .disarm ∧
  decode 0x40000001#32 = .ok (.gieWr true) ∧
  decode 0x50000005#32 = .ok (.rdReg 5) ∧
  decode 0x60000003#32 = .ok (.rdCh 3) ∧
  decode 0x7000000B#32 = .ok (.rdEv true 3) ∧
  decode 0x80000001#32 = .ok (.rdPort 1) ∧
  decode 0x90000103#32 = .ok (.gpioSet 1 0x03) ∧
  decode 0xA0000121#32 = .ok (.gpioClr 1 0x21) ∧
  decode 0xB0000281#32 = .ok (.gpioTgl 2 0x81) ∧
  decode 0xC0000000#32 = .ok .extClaim ∧
  decode 0xD0000000#32 = .ok .extRelease

/-- Decoding the word of any command gives the command back, every operand at every value its field admits (R84 to R87). -/
def Obligations.DecodeOfEncodeIsTheCommand : Prop :=
  ∀ i : Instr, decode (encode i) = .ok i

/-- A word has one meaning: a word that decodes to a command is that command's word, no bit dropped (R81, R84, R85). -/
def Obligations.EncodeOfDecodeIsTheWord : Prop :=
  ∀ (w : Word) (i : Instr), decode w = .ok i → encode i = w

/-- R84: a word is a command exactly when (word AND mask) = match, row by row, with the fields of R83, R86 and R87 read where
they stand. -/
def Obligations.DecodeFollowsOpcodeMap : Prop :=
  ∀ w : Word,
    (w &&& 0xFFFFFFFF#32 = 0x00000000#32 ↔ decode w = .ok .nop) ∧
    (w &&& 0xF0070000#32 = 0x10000000#32 ↔
      decode w = .ok (.initServo (w.extractLsb' 25 3) (w.extractLsb' 23 2) (w.extractLsb' 20 3) (w.getLsbD 19)
        (w.extractLsb' 0 16))) ∧
    (w &&& 0xFFFFFFFF#32 = 0x20000000#32 ↔ decode w = .ok .initServos) ∧
    (w &&& 0xFFFFFFFF#32 = 0x30000000#32 ↔ decode w = .ok .disarm) ∧
    (w &&& 0xFFFFFFFE#32 = 0x40000000#32 ↔ decode w = .ok (.gieWr (w.getLsbD 0))) ∧
    (w &&& 0xFFFFFFF0#32 = 0x50000000#32 ↔ decode w = .ok (.rdReg (w.extractLsb' 0 4))) ∧
    (w &&& 0xFFFFFFF8#32 = 0x60000000#32 ↔ decode w = .ok (.rdCh (w.extractLsb' 0 3))) ∧
    (w &&& 0xFFFFFFF0#32 = 0x70000000#32 ↔ decode w = .ok (.rdEv (w.getLsbD 3) (w.extractLsb' 0 3))) ∧
    (w &&& 0xFFFFFFFC#32 = 0x80000000#32 ↔ decode w = .ok (.rdPort (w.extractLsb' 0 2))) ∧
    (w &&& 0xFFFFFC00#32 = 0x90000000#32 ↔ decode w = .ok (.gpioSet (w.extractLsb' 8 2) (w.extractLsb' 0 8))) ∧
    (w &&& 0xFFFFFC00#32 = 0xA0000000#32 ↔ decode w = .ok (.gpioClr (w.extractLsb' 8 2) (w.extractLsb' 0 8))) ∧
    (w &&& 0xFFFFFC00#32 = 0xB0000000#32 ↔ decode w = .ok (.gpioTgl (w.extractLsb' 8 2) (w.extractLsb' 0 8))) ∧
    (w &&& 0xFFFFFFFF#32 = 0xC0000000#32 ↔ decode w = .ok .extClaim) ∧
    (w &&& 0xFFFFFFFF#32 = 0xD0000000#32 ↔ decode w = .ok .extRelease)

/-- R88: the illegal words are those of op 0xE and 0xF and those with a reserved bit of their format set (R83); such a HOST step
changes no state and answers 0x60000000; an out-of-range VALUE of a legal field decodes to its command, which answers
ERR_INDEX or ERR_RANGE. -/
def Obligations.ReservedWordsAreIllegal : Prop :=
  (∀ w : Word, (∃ e, decode w = .error e) ↔
    14 ≤ w.toNat / 2 ^ 28 ∨
    ∃ reserved, [0x0FFFFFFF#32, 0x00070000#32, 0x0FFFFFFF#32, 0x0FFFFFFF#32, 0x0FFFFFFE#32, 0x0FFFFFF0#32, 0x0FFFFFF8#32,
      0x0FFFFFF0#32, 0x0FFFFFFC#32, 0x0FFFFC00#32, 0x0FFFFC00#32, 0x0FFFFC00#32, 0x0FFFFFFF#32, 0x0FFFFFFF#32][w.toNat / 2 ^ 28]?
        = some reserved ∧ w &&& reserved ≠ 0#32) ∧
  (∀ (s : State) (w : Word) (e : Illegal), s.Live → s.nextEvent = .host w → decode w = .error e →
    step s = .next { s.dropEvent with response := some 0x60000000#32 }) ∧
  (∀ (s : State) (idx : BitVec 3) (port : PortId) (pin : PinId) (rest : Level) (pw : Tick), s.Live → 6 ≤ idx.toNat →
    decode (encode (.initServo idx port pin rest pw)) = .ok (.initServo idx port pin rest pw) ∧
      Replies (.initServo idx port pin rest pw) s s.block 0x10000000#32) ∧
  (∀ (s : State) (r : BitVec 4), s.Live → 9 ≤ r.toNat →
    decode (encode (.rdReg r)) = .ok (.rdReg r) ∧ Replies (.rdReg r) s s.block 0x70000000#32) ∧
  (∀ (s : State) (i : BitVec 3), s.Live → 6 ≤ i.toNat →
    decode (encode (.rdCh i)) = .ok (.rdCh i) ∧ Replies (.rdCh i) s s.block 0x70000000#32) ∧
  (∀ (s : State) (sel : Bool), s.Live →
    decode (encode (.rdEv sel 7)) = .ok (.rdEv sel 7) ∧ Replies (.rdEv sel 7) s s.block 0x70000000#32)

/-- R93: the five pseudo-commands, as lines and as written, stand for the command words of the table. -/
def Obligations.PseudoCommandsExpand : Prop :=
  assembleText "sei" = some [.host 0x40000001#32] ∧ assembleText "gie_wr 1" = some [.host 0x40000001#32] ∧
  assembleText "cli" = some [.host 0x40000000#32] ∧ assembleText "gie_wr 0" = some [.host 0x40000000#32] ∧
  assembleText "rd_sh 7" = some [.host 0x7000000F#32] ∧ assembleText "rd_ev 1, 7" = some [.host 0x7000000F#32] ∧
  assembleText "rd_status" = some [.host 0x50000000#32] ∧ assembleText "rd_reg 0" = some [.host 0x50000000#32] ∧
  assembleText "rd_sched_pos" = some [.host 0x50000005#32] ∧ assembleText "rd_reg 5" = some [.host 0x50000005#32] ∧
  eventsOf .sei = [.host 0x40000001#32] ∧ eventsOf .cli = [.host 0x40000000#32] ∧
  (∀ k, k < 8 → eventsOf (.rdSh k) = [.host (0x70000008#32 + BitVec.ofNat 32 k)] ∧ eventsOf (.rdSh k) = eventsOf (.rdEv 1 k)) ∧
  eventsOf .rdStatus = [.host 0x50000000#32] ∧ eventsOf .rdSchedPos = [.host 0x50000005#32]

/-! ### The step and reset -/

/-- A step whose offer is a command word runs exactly the command it decodes to (R80, R85), with the offer used up first; the
offer is the first of `inputs`, and past their end a free value (log entry 1, the model's choice). A fetched word is run next
(log entry 8, the model's choice). -/
def Obligations.StepRunsDecodedCommand : Prop :=
  (∀ (s : State) (w : Word) (i : Instr), s.nextEvent = .host w → decode w = .ok i → step s = exec i s.dropEvent) ∧
  (∀ (s : State) (e : Event) (es : List Event), s.inputs = e :: es →
    s.nextEvent = e ∧ s.dropEvent = { s with inputs := es }) ∧
  (∀ s : State, s.inputs = [] →
    s.nextEvent = Config.freeEvent s.freeIndex ∧ s.dropEvent = { s with freeIndex := s.freeIndex + 1 }) ∧
  (∀ (s : State) (i : Instr), step (s.withFetchWord 32 (encode i).toNat) = exec i s)

/-- R260: reset leaves every state element 0, and reading STATUS then answers 0x00000000. -/
def Obligations.ResetLeavesEverythingZero : Prop :=
  let b := State.reset.block
  (∀ i : Fin 6, b.ch[i].valid = false ∧ b.ch[i].port = 0 ∧ b.ch[i].pin = 0 ∧ b.ch[i].rest = false ∧ b.ch[i].pw = 0) ∧
  (∀ k : Fin 7, b.evq[k].wrap = false ∧ b.evq[k].port = 0 ∧ b.evq[k].pin = 0 ∧ b.evq[k].level = false ∧ b.evq[k].tick = 0) ∧
  (∀ k : Fin 7, b.shq[k].wrap = false ∧ b.shq[k].port = 0 ∧ b.shq[k].pin = 0 ∧ b.shq[k].level = false ∧ b.shq[k].tick = 0) ∧
  b.evn = 0 ∧ b.shn = 0 ∧ b.pend = false ∧ b.evi = 0 ∧ b.phase = .active ∧ b.cnt = 0 ∧ b.ocr = 0 ∧ b.fbase = 0 ∧
  b.run = false ∧ b.ocie = false ∧ b.ocf = false ∧ b.gie = false ∧ b.town = .free ∧ b.ovr = 0 ∧ b.fault = false ∧
  (∀ p : Fin 4, b.ports[p] = 0) ∧
  Replies (.rdReg 0) State.reset b 0x00000000#32

/-- R262: after reset no TICK and no SERVICE step is enabled; offering one leaves the block as it is (log entry 2, the model's
choice), and every command is enabled. -/
def Obligations.OnlyCommandsEnabledAfterReset : Prop :=
  ∀ (s : State), s.block = Block.reset →
    s.block.run = false ∧ s.block.interruptEnabled = false ∧
    (s.nextEvent = .tick ∨ s.nextEvent = .service → step s = .next { s.dropEvent with response := none }) ∧
    ∀ i : Instr, ∃ t, exec i s = .next t

/-- R46, 93 U1: with FAULT = 1 no rule says what the block does; the model stops every command and every step (log entry 3, the
model's choice). -/
def Obligations.FaultedBlockStops : Prop :=
  ∀ s : State, s.block.fault = true → (∀ i : Instr, exec i s = .fault .timerMisused) ∧ step s = .fault .timerMisused

/-! ### The Control API commands -/

/-- R190: NOP answers OK and writes no state. -/
def Obligations.NopChangesNothing : Prop :=
  EncodedBy .nop 0x00000000#32 0xFFFFFFFF#32 ∧ ∀ s : State, s.Live → Replies .nop s s.block 0x00000000#32

/-- R180, R182: INIT_SERVOS refuses another owner's timer, is a no-op on an empty registry, refuses a malformed schedule, arms
from FREE, and rebuilds into the shadow queue when already armed. -/
def Obligations.InitServosArmsOrRebuilds : Prop :=
  EncodedBy .initServos 0x20000000#32 0xFFFFFFFF#32 ∧ ∀ s : State, s.Live →
    (s.block.town = .other → Replies .initServos s s.block 0x50000000#32) ∧
    (s.block.town ≠ .other → (∀ i : Fin 6, s.block.ch[i].valid = false) → Replies .initServos s s.block 0x00000000#32) ∧
    (s.block.town ≠ .other → build Config.frameTicks s.block.ch = .reject → Replies .initServos s s.block 0x40000000#32) ∧
    (∀ q n, s.block.town = .free → build Config.frameTicks s.block.ch = .built q n →
      Replies .initServos s
        { s.block with evq := q, evn := n, pend := false, evi := 0, phase := .active, cnt := 0, fbase := 0, ocr := 0,
                       ocf := true, run := true, ocie := true, town := .servo } 0x00000000#32) ∧
    (∀ q n, s.block.town = .servo → build Config.frameTicks s.block.ch = .built q n →
      Replies .initServos s { s.block with shq := q, shn := n, pend := true } 0x00000000#32)

/-- R184: DISARM stops the timer, discards a pending request and a pending schedule, frees the timer, and keeps everything
else; when not armed it changes nothing; no SERVICE step is enabled after it, through every step until an INIT_SERVOS. -/
def Obligations.DisarmStopsTheTimer : Prop :=
  EncodedBy .disarm 0x30000000#32 0xFFFFFFFF#32 ∧ ∀ s : State, s.Live →
    (s.block.town = .servo → Replies .disarm s
      { s.block with run := false, ocie := false, ocf := false, pend := false, town := .free } 0x00000000#32 ∧
      ∀ t, exec .disarm s = .next t → t.block.interruptEnabled = false) ∧
    (s.block.town ≠ .servo → Replies .disarm s s.block 0x00000000#32) ∧
    (s.block.run = false → s.block.ocf = false → ¬ s.OffersCommand .initServos → ∀ t, step s = .next t →
      t.block.run = false ∧ t.block.ocf = false ∧ t.block.interruptEnabled = false)

/-- R186: GIE_WR writes GIE and nothing else; SERVICE is then enabled exactly if GIE was written 1 and OCF and OCIE are 1. -/
def Obligations.GieWrWritesGie : Prop :=
  ∀ (s : State) (v : Bool), s.Live → EncodedBy (.gieWr v) 0x40000000#32 0xFFFFFFFE#32 ∧
    Replies (.gieWr v) s { s.block with gie := v } 0x00000000#32 ∧
    ∀ t, exec (.gieWr v) s = .next t →
      (t.block.interruptEnabled = true ↔ v = true ∧ s.block.ocf = true ∧ s.block.ocie = true) ∧ t.block.run = s.block.run

/-- R189 with the register layouts of R66: RD_REG returns the register in the bits the table gives it, the unlisted bits 0, and
changes no state; 9 to 15 answer ERR_RANGE. -/
def Obligations.RdRegReadsTheRegister : Prop :=
  ∀ (s : State) (r : BitVec 4), s.Live → EncodedBy (.rdReg r) 0x50000000#32 0xFFFFFFF0#32 ∧
    (9 ≤ r.toNat → Replies (.rdReg r) s s.block 0x70000000#32) ∧
    (r.toNat ≤ 8 → ∃ w, Replies (.rdReg r) s s.block w ∧ statusOf w = 0 ∧
      let d := dataOf w
      let b := s.block
      (r = 0 →
        d.getLsbD 0 = b.gie ∧ d.getLsbD 1 = b.run ∧ d.getLsbD 2 = b.ocie ∧ d.getLsbD 3 = b.ocf ∧
        (d.getLsbD 4 = true ↔ b.phase = .scheduled) ∧ d.getLsbD 5 = b.pend ∧
        (d.getLsbD 6 = true ↔ b.town = .servo) ∧ (d.getLsbD 7 = true ↔ b.town = .other) ∧ d.getLsbD 8 = b.fault ∧
        d.extractLsb' 9 3 = b.evi ∧ d.extractLsb' 12 3 = b.evn ∧ d.extractLsb' 15 3 = b.shn ∧ d.extractLsb' 18 10 = 0) ∧
      (r = 1 → d.toNat = b.cnt.toNat) ∧
      (r = 2 → d.toNat = b.ocr.toNat) ∧
      (r = 3 → d.toNat = b.fbase.toNat) ∧
      (r = 4 → d.toNat = Config.frameTicks) ∧
      (r = 5 → d.extractLsb' 16 3 = b.evi ∧ d.extractLsb' 0 16 = b.ocr ∧ d.extractLsb' 19 9 = 0) ∧
      (r = 6 → d.toNat = b.ovr.toNat) ∧
      (r = 7 → (d.toNat : Int) = ((b.cnt.toNat : Int) - b.fbase.toNat) % 65536) ∧
      (r = 8 → (∀ i : Fin 6, d.getLsbD i.val = b.ch[i].valid) ∧ d.extractLsb' 6 22 = 0))

/-! ### The Channel Registry commands -/

/-- R110, R111: INIT_SERVO's checks in their order, then the registry write, and when armed the rebuild into the shadow queue
in the same step; an error leaves everything as it was. -/
def Obligations.InitServoChecksThenRegisters : Prop :=
  ∀ (s : State) (idx : BitVec 3) (port : PortId) (pin : PinId) (rest : Level) (pw : Tick), s.Live →
    EncodedBy (.initServo idx port pin rest pw) 0x10000000#32 0xF0070000#32 ∧
    (6 ≤ idx.toNat → Replies (.initServo idx port pin rest pw) s s.block 0x10000000#32) ∧
    (∀ h : idx.toNat < 6,
      let reg := s.block.ch.set idx.toNat ⟨true, port, pin, rest, pw⟩ h
      let collision := ∃ j : Fin 6, j.val ≠ idx.toNat ∧ s.block.ch[j].valid = true ∧ s.block.ch[j].port = port ∧
        s.block.ch[j].pin = pin
      (pw.toInt ≤ 0 → Replies (.initServo idx port pin rest pw) s s.block 0x20000000#32) ∧
      (0 < pw.toInt → collision → Replies (.initServo idx port pin rest pw) s s.block 0x30000000#32) ∧
      (0 < pw.toInt → ¬collision → s.block.town ≠ .servo →
        Replies (.initServo idx port pin rest pw) s { s.block with ch := reg } 0x00000000#32) ∧
      (0 < pw.toInt → ¬collision → s.block.town = .servo →
        (build Config.frameTicks reg = .reject → Replies (.initServo idx port pin rest pw) s s.block 0x40000000#32) ∧
        (∀ q n, build Config.frameTicks reg = .built q n →
          Replies (.initServo idx port pin rest pw) s { s.block with shq := q, shn := n, pend := true, ch := reg }
            0x00000000#32) ∧
        build Config.frameTicks reg ≠ .empty))

/-- R265, R110: a registration writes no port, no timer element, no active queue, no sequencer position: only its slot and,
while armed, the shadow queue. -/
def Obligations.RegistrationHasNoHardwareEffect : Prop :=
  ∀ (s t : State) (idx : BitVec 3) (port : PortId) (pin : PinId) (rest : Level) (pw : Tick),
    exec (.initServo idx port pin rest pw) s = .next t →
      t.block = { s.block with ch := t.block.ch, shq := t.block.shq, shn := t.block.shn, pend := t.block.pend } ∧
      (s.block.town ≠ .servo → t.block = { s.block with ch := t.block.ch }) ∧
      (∀ j : Fin 6, j.val ≠ idx.toNat → t.block.ch[j] = s.block.ch[j])

/-- R116 with the channel record of R89: RD_CH returns the slot's fields and changes no state; 6 and 7 answer ERR_RANGE. -/
def Obligations.RdChReadsTheSlot : Prop :=
  ∀ (s : State) (i : BitVec 3), s.Live → EncodedBy (.rdCh i) 0x60000000#32 0xFFFFFFF8#32 ∧
    (6 ≤ i.toNat → Replies (.rdCh i) s s.block 0x70000000#32) ∧
    (∀ h : i.toNat < 6, ∃ w, Replies (.rdCh i) s s.block w ∧ statusOf w = 0 ∧
      let d := dataOf w
      let c := s.block.ch[i.toNat]'h
      d.extractLsb' 23 5 = 0 ∧ d.getLsbD 22 = c.valid ∧ d.extractLsb' 20 2 = c.port ∧ d.extractLsb' 17 3 = c.pin ∧
        d.getLsbD 16 = c.rest ∧ d.extractLsb' 0 16 = c.pw)

/-! ### The Pulse Timing Engine and RD_EV -/

/-- R139 with the event record of R90: RD_EV returns the entry's fields of the selected queue and changes no state; k = 7
answers ERR_RANGE. -/
def Obligations.RdEvReadsTheEntry : Prop :=
  ∀ (s : State) (sel : Bool) (k : BitVec 3), s.Live → EncodedBy (.rdEv sel k) 0x70000000#32 0xFFFFFFF0#32 ∧
    (k = 7 → Replies (.rdEv sel k) s s.block 0x70000000#32) ∧
    (∀ h : k.toNat < 7, ∃ w, Replies (.rdEv sel k) s s.block w ∧ statusOf w = 0 ∧
      let d := dataOf w
      let e := if sel then s.block.shq[k.toNat]'h else s.block.evq[k.toNat]'h
      d.extractLsb' 23 5 = 0 ∧ d.getLsbD 22 = e.wrap ∧ d.extractLsb' 20 2 = e.port ∧ d.extractLsb' 17 3 = e.pin ∧
        d.getLsbD 16 = e.level ∧ d.extractLsb' 0 16 = e.tick)

/-- R132 and the EMPTY case of R131: BUILD is EMPTY exactly on an empty registry, and rejects exactly when the valid widths sum
to more than FRAME, an unbounded sum, or some valid width is not below FRAME. -/
def Obligations.BuildRejectsMalformedSchedules : Prop :=
  ∀ (frame : Nat) (reg : Registry),
    let total := ∑ i : Fin 6, if reg[i].valid then reg[i].pw.toNat else 0
    (build frame reg = .empty ↔ ∀ i : Fin 6, reg[i].valid = false) ∧
    (build frame reg = .reject ↔
      (∃ i : Fin 6, reg[i].valid = true) ∧
        (frame < total ∨ ∃ i : Fin 6, reg[i].valid = true ∧ frame ≤ reg[i].pw.toNat))

/-- R133, R134, R135: a built queue has one entry per valid channel, in ascending (width, index) order, each returning its
channel's pin to rest at the channel's own width, then the marker at FRAME, then zeros. -/
def Obligations.BuildEmitsChannelsInOrder : Prop :=
  ∀ (frame : Nat) (reg : Registry) (q : Vector Entry 7) (n : BitVec 3), build frame reg = .built q n →
    ∃ order : List (Fin 6),
      (∀ i, i ∈ order ↔ reg[i].valid = true) ∧
      order.Pairwise (fun i j => reg[i].pw.toNat < reg[j].pw.toNat ∨ (reg[i].pw = reg[j].pw ∧ i < j)) ∧
      n.toNat = order.length + 1 ∧
      (∀ (k : Nat) (h : k < order.length), entryAt q k =
        ⟨false, reg[order[k]].port, reg[order[k]].pin, reg[order[k]].rest, reg[order[k]].pw⟩) ∧
      entryAt q order.length = ⟨true, 0, 0, false, BitVec.ofNat 16 frame⟩ ∧
      (∀ k, order.length < k → k < 7 → entryAt q k = ⟨false, 0, 0, false, 0⟩)

/-- R30 (Q1): a queue built from a sound registry meets the queue invariant. -/
def Obligations.BuiltQueueIsSound : Prop :=
  ∀ (frame : Nat) (reg : Registry) (q : Vector Entry 7) (n : BitVec 3), frame ≤ 65535 → RegistryOk reg →
    build frame reg = .built q n → QueueOk frame q n.toNat

/-- R137: the source's two-channel scenario, for every FRAME that admits it. -/
def Obligations.SourceScenarioSchedule : Prop :=
  ∀ frame : Nat, 115 ≤ frame → frame ≤ 65535 →
    build frame #v[⟨true, 1, 2, false, 35⟩, ⟨true, 1, 5, false, 80⟩, Channel.empty, Channel.empty, Channel.empty, Channel.empty]
      = .built #v[⟨false, 1, 2, false, 35⟩, ⟨false, 1, 5, false, 80⟩, ⟨true, 0, 0, false, BitVec.ofNat 16 frame⟩, Entry.zero,
          Entry.zero, Entry.zero, Entry.zero] 3

/-! ### GPIO and timer ownership -/

/-- R201, R202, R203: the three GPIO commands set, clear and invert exactly the masked bits of their port; every other bit,
port and state element is unchanged. -/
def Obligations.GpioCommandsWriteMaskedBits : Prop :=
  ∀ (s : State) (p : PortId) (m : PortBits), s.Live →
    EncodedBy (.gpioSet p m) 0x90000000#32 0xFFFFFC00#32 ∧ EncodedBy (.gpioClr p m) 0xA0000000#32 0xFFFFFC00#32 ∧
    EncodedBy (.gpioTgl p m) 0xB0000000#32 0xFFFFFC00#32 ∧
    (∃ ports, Replies (.gpioSet p m) s { s.block with ports := ports } 0x00000000#32 ∧
      ∀ (q : PortId) (c : PinId), pinLevel ports q c =
        if q = p ∧ m.getLsbD c.toNat = true then true else pinLevel s.block.ports q c) ∧
    (∃ ports, Replies (.gpioClr p m) s { s.block with ports := ports } 0x00000000#32 ∧
      ∀ (q : PortId) (c : PinId), pinLevel ports q c =
        if q = p ∧ m.getLsbD c.toNat = true then false else pinLevel s.block.ports q c) ∧
    (∃ ports, Replies (.gpioTgl p m) s { s.block with ports := ports } 0x00000000#32 ∧
      ∀ (q : PortId) (c : PinId), pinLevel ports q c =
        if q = p ∧ m.getLsbD c.toNat = true then !pinLevel s.block.ports q c else pinLevel s.block.ports q c)

/-- R204: RD_PORT returns the output latch in data bits [7:0] and changes no state. -/
def Obligations.RdPortReadsTheLatch : Prop :=
  ∀ (s : State) (p : PortId), s.Live → EncodedBy (.rdPort p) 0x80000000#32 0xFFFFFFFC#32 ∧ ∃ w, Replies (.rdPort p) s s.block w ∧ statusOf w = 0 ∧
    (∀ c : PinId, (dataOf w).getLsbD c.toNat = pinLevel s.block.ports p c) ∧ (dataOf w).extractLsb' 8 20 = 0

/-- R206: EXT_CLAIM takes a free timer, changes nothing when another subsystem has it, and while armed sets FAULT and answers
ERR_RESOURCE. -/
def Obligations.ExtClaimTakesOrFaults : Prop :=
  EncodedBy .extClaim 0xC0000000#32 0xFFFFFFFF#32 ∧ ∀ s : State, s.Live →
    (s.block.town = .free → Replies .extClaim s { s.block with town := .other } 0x00000000#32) ∧
    (s.block.town = .other → Replies .extClaim s s.block 0x00000000#32) ∧
    (s.block.town = .servo → Replies .extClaim s { s.block with fault := true } 0x50000000#32)

/-- R207: EXT_RELEASE gives back another subsystem's timer and changes nothing else. -/
def Obligations.ExtReleaseFreesOthersTimer : Prop :=
  EncodedBy .extRelease 0xD0000000#32 0xFFFFFFFF#32 ∧ ∀ s : State, s.Live →
    (s.block.town = .other → Replies .extRelease s { s.block with town := .free } 0x00000000#32) ∧
    (s.block.town ≠ .other → Replies .extRelease s s.block 0x00000000#32)

/-- R44, R208: the owner of the timer changes only along the four transfers, over every step of the machine. -/
def Obligations.OwnershipTransfersOnlyByCommand : Prop :=
  ∀ s t : State, step s = .next t → t.block.town ≠ s.block.town →
    (s.block.town = .free ∧ t.block.town = .servo ∧ s.OffersCommand .initServos) ∨
    (s.block.town = .servo ∧ t.block.town = .free ∧ s.OffersCommand .disarm) ∨
    (s.block.town = .free ∧ t.block.town = .other ∧ s.OffersCommand .extClaim) ∨
    (s.block.town = .other ∧ t.block.town = .free ∧ s.OffersCommand .extRelease)

/-! ### TICK and SERVICE -/

/-- R150: a TICK step advances the counter modulo 65536 and sets OCF on a match, writing nothing else of the block. -/
def Obligations.TickAdvancesTheCounter : Prop :=
  ∀ s : State, s.Live → s.nextEvent = .tick → s.block.run = true →
    ∃ t, step s = .next t ∧
      t = { s.dropEvent with response := none, block := { s.block with cnt := t.block.cnt, ocf := t.block.ocf } } ∧
      t.block.cnt.toNat = (s.block.cnt.toNat + 1) % 65536 ∧
      (t.block.ocf = true ↔ s.block.ocf = true ∨ t.block.cnt = s.block.ocr)

/-- R151, R41: a request arises only from a counter match in a TICK step with RUN = 1, or from the arming. -/
def Obligations.RequestArisesOnlyFromMatchOrArming : Prop :=
  ∀ s t : State, step s = .next t → s.block.ocf = false → t.block.ocf = true →
    (s.nextEvent = .tick ∧ s.block.run = true ∧ t.block.cnt = s.block.cnt + 1 ∧ t.block.cnt = t.block.ocr) ∨
    (s.OffersCommand .initServos ∧ s.block.town = .free ∧ t.block.town = .servo)

/-- R225: a pending request stays pending through every step but DISARM and its own SERVICE step. -/
def Obligations.PendingRequestIsNeverLost : Prop :=
  ∀ s t : State, step s = .next t → s.block.ocf = true → ¬ s.OffersCommand .disarm →
    ¬(s.nextEvent = .service ∧ s.block.interruptEnabled = true) → t.block.ocf = true

/-- A TICK step with RUN = 0 and a SERVICE step with OCF, OCIE or GIE = 0 are not enabled (R150, R154); offered all the same, they
change no state of the block (log entry 2, the model's choice). -/
def Obligations.DisabledOffersChangeNothing : Prop :=
  ∀ s : State, s.Live →
    (s.nextEvent = .tick ∧ s.block.run = false ∨
      s.nextEvent = .service ∧ (s.block.ocf = false ∨ s.block.ocie = false ∨ s.block.gie = false)) →
    step s = .next { s.dropEvent with response := none }

/-- R154, R47, R159, R228: an enabled SERVICE step of a sound block completes; it leaves OCF = 0, PHASE = SCHEDULED_TOGGLE and
the compare register programmed for the awaited entry, which lies 1 to FRAME ticks ahead. -/
def Obligations.ServiceLeavesConsistentPair : Prop :=
  ∀ s : State, s.Live → BlockOk Config.frameTicks s.block → s.nextEvent = .service → s.block.interruptEnabled = true →
    ∃ t, step s = .next t ∧ t.block.ocf = false ∧ t.block.phase = .scheduled ∧
      t.block.ocr - t.block.fbase = t.block.awaited.tick ∧ t.block.now.toNat < t.block.awaited.tick.toNat ∧
      1 ≤ (t.block.ocr - t.block.cnt).toNat ∧ (t.block.ocr - t.block.cnt).toNat ≤ Config.frameTicks

/-- R155, R231: what a SERVICE step never writes, in any state: the registry, the shadow queue, CNT, RUN, OCIE, GIE, TOWN, FAULT;
it always clears OCF. -/
def Obligations.ServiceFrame : Prop :=
  ∀ s t : State, s.nextEvent = .service → s.block.interruptEnabled = true → step s = .next t →
    t.block.ch = s.block.ch ∧ t.block.shq = s.block.shq ∧ t.block.shn = s.block.shn ∧ t.block.cnt = s.block.cnt ∧
    t.block.run = s.block.run ∧ t.block.ocie = s.block.ocie ∧ t.block.gie = s.block.gie ∧ t.block.town = s.block.town ∧
    t.block.fault = s.block.fault ∧ t.block.ocf = false ∧ t.response = none ∧
    t.inputs = s.inputs.tail

/-- R155, R156, R158, R159: a SERVICE step that reaches entry `j` and no marker applies exactly the entries before `j`, in queue
order, after the initial drive if this is the first service, and counts an overrun exactly if one of them was missed. -/
def Obligations.ServiceAppliesDueEntries : Prop :=
  ∀ (s : State) (j : Nat), s.Live → BlockOk Config.frameTicks s.block → s.nextEvent = .service →
    s.block.interruptEnabled = true → s.block.evi.toNat ≤ j → j ≤ s.block.evn.toNat - 1 →
    (∀ k, s.block.evi.toNat ≤ k → k < j → (entryAt s.block.evq k).tick.toNat ≤ s.block.now.toNat) →
    s.block.now.toNat < (entryAt s.block.evq j).tick.toNat →
    step s = .next { s.dropEvent with
      response := none
      block := { s.block with
        ocf := false
        phase := .scheduled
        evi := BitVec.ofNat 3 j
        ocr := s.block.fbase + (entryAt s.block.evq j).tick
        ports := ((List.range' s.block.evi.toNat (j - s.block.evi.toNat)).map (entryAt s.block.evq)).foldl
          (fun ports e => drive ports e.port e.pin e.level)
          (if s.block.phase = .active then (doActive s.block).ports else s.block.ports)
        ovr := if ((List.range' s.block.evi.toNat (j - s.block.evi.toNat)).any fun k =>
            decide (s.block.armedFor.toNat < (entryAt s.block.evq k).tick.toNat))
          then BitVec.ofNat 16 (min (s.block.ovr.toNat + 1) 65535) else s.block.ovr } }

/-- R155, R157: a SERVICE step that executes the marker and nothing of the new frame applies the rest of the old frame, moves the
frame base on by FRAME, commits a pending schedule, returns EVI to 0 and drives the new queue's pins active, all in the one step. -/
def Obligations.ServiceWrapsTheFrame : Prop :=
  ∀ s : State, s.Live → BlockOk Config.frameTicks s.block → s.nextEvent = .service → s.block.interruptEnabled = true →
    let q := if s.block.pend then s.block.shq else s.block.evq
    let n := if s.block.pend then s.block.shn else s.block.evn
    let first := s.block.evi.toNat
    let count := s.block.evn.toNat - first
    let afterRest := ((List.range' first (count - 1)).map (entryAt s.block.evq)).foldl
      (fun ports e => drive ports e.port e.pin e.level)
      (if s.block.phase = .active then (doActive s.block).ports else s.block.ports)
    Config.frameTicks ≤ s.block.now.toNat →
    s.block.now.toNat - Config.frameTicks < (entryAt q 0).tick.toNat →
    step s = .next { s.dropEvent with
      response := none
      block := { s.block with
        evq := q
        evn := n
        pend := false
        ocf := false
        phase := .scheduled
        evi := 0
        fbase := s.block.fbase + BitVec.ofNat 16 Config.frameTicks
        ocr := s.block.fbase + BitVec.ofNat 16 Config.frameTicks + (entryAt q 0).tick
        ports := ((List.range (n.toNat - 1)).map (entryAt q)).foldl
          (fun ports e => drive ports e.port e.pin (!e.level)) afterRest
        ovr := if ((List.range' first count).any fun k =>
            decide (s.block.armedFor.toNat < (entryAt s.block.evq k).tick.toNat))
          then BitVec.ofNat 16 (min (s.block.ovr.toNat + 1) 65535) else s.block.ovr } }

/-- R157, R159 ("not drifting the whole frame permanently"): however late the step, the frame base has moved on by a whole number
of frames, and the frame tick after the step is the remainder of the frame tick before it. -/
def Obligations.FrameNeverDrifts : Prop :=
  ∀ s t : State, BlockOk Config.frameTicks s.block → s.nextEvent = .service → s.block.interruptEnabled = true →
    step s = .next t →
    t.block.now.toNat = s.block.now.toNat % Config.frameTicks ∧
    t.block.fbase =
      s.block.fbase + BitVec.ofNat 16 (s.block.now.toNat / Config.frameTicks * Config.frameTicks)

/-- R158, R162: a SERVICE step taken at the very tick its compare was programmed for never counts an overrun, in any state. -/
def Obligations.OnTimeServiceIsNoOverrun : Prop :=
  ∀ s t : State, s.nextEvent = .service → s.block.cnt = s.block.ocr → step s = .next t → t.block.ovr = s.block.ovr

/-- R161: while the latency is at most 65535 - FRAME, the 16-bit frame tick is the true number of ticks since the frame's tick 0,
and no entry the step finds due in that frame is late by more than the latency (Q6). -/
def Obligations.FrameTickIsTrueWithinLatencyBound : Prop :=
  ∀ s : State, BlockSound Config.frameTicks s.block → s.block.run = true → s.block.phase = .scheduled →
    s.block.latency ≤ 65535 - Config.frameTicks →
    s.block.now.toNat = s.block.awaited.tick.toNat + s.block.latency ∧
    ∀ k, s.block.evi.toNat ≤ k → k ≤ s.block.evn.toNat - 1 →
      (entryAt s.block.evq k).tick.toNat ≤ s.block.now.toNat →
      s.block.now.toNat - (entryAt s.block.evq k).tick.toNat ≤ s.block.latency

/-- R152, R48 (Q8: "never touches other register bits"): a SERVICE step changes no pin that neither the active queue nor a
pending shadow queue names. -/
def Obligations.ServiceTouchesOnlyScheduledPins : Prop :=
  ∀ (s t : State) (p : PortId) (c : PinId), BlockOk Config.frameTicks s.block → s.nextEvent = .service → step s = .next t →
    ¬ s.block.Drives p c →
    (s.block.pend = true → ∀ k, k < s.block.shn.toNat - 1 →
      ¬((entryAt s.block.shq k).port = p ∧ (entryAt s.block.shq k).pin = c)) →
    pinLevel t.block.ports p c = pinLevel s.block.ports p c

/-- R152: `drive` assigns the level of its one pin and changes no other; applied twice it does what it does once. -/
def Obligations.DriveAssignsOnePin : Prop :=
  ∀ (ports : Vector PortBits 4) (p : PortId) (c : PinId) (level : Level),
    (∀ (q : PortId) (d : PinId), pinLevel (drive ports p c level) q d =
      if q = p ∧ d = c then level else pinLevel ports q d) ∧
    drive (drive ports p c level) p c level = drive ports p c level

/-- R153: do_active drives every pin of a sound active queue to the complement of its rest level, and changes nothing else. -/
def Obligations.InitialDriveActivatesEveryPin : Prop :=
  ∀ (frame : Nat) (b : Block), QueueOk frame b.evq b.evn.toNat →
    (∀ k, k < b.evn.toNat - 1 →
      pinLevel (doActive b).ports (entryAt b.evq k).port (entryAt b.evq k).pin = !(entryAt b.evq k).level) ∧
    (∀ (p : PortId) (c : PinId), ¬ b.Drives p c → pinLevel (doActive b).ports p c = pinLevel b.ports p c) ∧
    doActive b = { b with ports := (doActive b).ports }

/-! ### Invariants -/

/-- The reset state meets the invariants. -/
def Obligations.ResetIsSound : Prop :=
  BlockSound Config.frameTicks State.reset.block ∧ PulsesOk State.reset.block

/-- R23, R25, R30, R34, R47 and Q3: every step of the machine keeps every invariant of the block, from every sound state. -/
def Obligations.EveryStepKeepsTheBlockSound : Prop :=
  ∀ s t : State, BlockSound Config.frameTicks s.block → step s = .next t → BlockSound Config.frameTicks t.block

/-- Q4, Q5, R157: every step keeps the pins where the schedule has them, as long as the host writes none of them and no request
waits longer than 65535 - FRAME ticks (R161). -/
def Obligations.EveryStepKeepsPinsOnSchedule : Prop :=
  ∀ s t : State, BlockSound Config.frameTicks s.block → PulsesOk s.block → s.SparesPins →
    (s.nextEvent = .tick → s.block.ocf = true → s.block.latency < 65535 - Config.frameTicks) →
    step s = .next t → PulsesOk t.block

/-- R162 (Q5): after every step that leaves the block armed with no request waiting, every scheduled pin is at its active level
exactly while the frame tick is below its entry's tick, and at its rest level from then on; from a sound block on schedule, as
long as the host writes none of those pins and no request waits longer than 65535 - FRAME ticks. -/
def Obligations.PulseLevelsAreExact : Prop :=
  ∀ s t : State, BlockSound Config.frameTicks s.block → PulsesOk s.block → s.SparesPins →
    (s.nextEvent = .tick → s.block.ocf = true → s.block.latency < 65535 - Config.frameTicks) →
    step s = .next t → t.block.run = true → t.block.ocf = false →
    ∀ k, k < t.block.evn.toNat - 1 →
      pinLevel t.block.ports (entryAt t.block.evq k).port (entryAt t.block.evq k).pin =
        if t.block.now.toNat < (entryAt t.block.evq k).tick.toNat then !(entryAt t.block.evq k).level
        else (entryAt t.block.evq k).level

/-- R267: a DISARM while only the marker remains to be executed is a clean stop: it stops the timer and leaves every pin of the
active queue at its rest level. -/
def Obligations.DisarmBeforeTheWrapIsClean : Prop :=
  ∀ s : State, s.Live → BlockOk Config.frameTicks s.block → PulsesOk s.block → s.block.town = .servo →
    s.block.phase = .scheduled → s.block.evi.toNat = s.block.evn.toNat - 1 →
    ∃ t, exec .disarm s = .next t ∧ t.block.run = false ∧ t.block.interruptEnabled = false ∧
      ∀ k, k < s.block.evn.toNat - 1 →
        pinLevel t.block.ports (entryAt s.block.evq k).port (entryAt s.block.evq k).pin = (entryAt s.block.evq k).level

/-! ### Rules of the whole machine -/

/-- R220: an error answers a status 1 to 7 and data 0 and changes no state, but for EXT_CLAIM while armed, which sets FAULT. -/
def Obligations.ErrorsChangeNothing : Prop :=
  ∀ (i : Instr) (s t : State) (w : Word), exec i s = .next t → t.response = some w → statusOf w ≠ 0 →
    (statusOf w).toNat ≤ 7 ∧ dataOf w = 0 ∧
    (t.block = s.block ∨
      (i = .extClaim ∧ s.block.town = .servo ∧ t.block = { s.block with fault := true }))

/-- R223: the commands that cannot fail once decoded answer OK. -/
def Obligations.SomeCommandsCannotFail : Prop :=
  ∀ (i : Instr) (s : State), s.Live →
    (i = .nop ∨ i = .disarm ∨ (∃ v, i = .gieWr v) ∨ (∃ p, i = .rdPort p) ∨ (∃ p m, i = .gpioSet p m) ∨
      (∃ p m, i = .gpioClr p m) ∨ (∃ p m, i = .gpioTgl p m) ∨ i = .extRelease) →
    ∃ t w, exec i s = .next t ∧ t.response = some w ∧ statusOf w = 0

/-- R26, R22: no step but a HOST step of INIT_SERVO writes the registry, and no step at all empties a slot. -/
def Obligations.OnlyInitServoWritesTheRegistry : Prop :=
  ∀ s t : State, step s = .next t →
    ((∀ idx port pin rest pw, ¬ s.OffersCommand (.initServo idx port pin rest pw)) → t.block.ch = s.block.ch) ∧
    (∀ i : Fin 6, s.block.ch[i].valid = true → t.block.ch[i].valid = true)

/-- R42: no step but a HOST step of GIE_WR writes GIE. -/
def Obligations.OnlyGieWrWritesGie : Prop :=
  ∀ s t : State, step s = .next t → t.block.gie ≠ s.block.gie → s.OffersCommand (.gieWr t.block.gie)

/-- R45: only an enabled SERVICE step changes OVR, and it raises it by one, saturating at 65535. -/
def Obligations.OverrunCounterOnlyRises : Prop :=
  ∀ s t : State, step s = .next t → t.block.ovr ≠ s.block.ovr →
    s.nextEvent = .service ∧ s.block.interruptEnabled = true ∧ t.block.ovr.toNat = s.block.ovr.toNat + 1

/-- R46 (Q12): FAULT becomes 1 only by EXT_CLAIM while armed. -/
def Obligations.OnlyClaimWhileArmedFaults : Prop :=
  ∀ s t : State, step s = .next t → t.block.fault = true → s.OffersCommand .extClaim ∧ s.block.town = .servo

/-- R36: the counter rises by 1 modulo 65536 at each TICK step with RUN = 1, becomes 0 at the arming, and changes at no other
time. -/
def Obligations.CounterChangesOnlyByTickAndArming : Prop :=
  ∀ s t : State, step s = .next t →
    (s.nextEvent = .tick ∧ s.block.run = true → t.block.cnt.toNat = (s.block.cnt.toNat + 1) % 65536) ∧
    (s.block.town ≠ .servo ∧ t.block.town = .servo → t.block.cnt = 0) ∧
    (¬(s.nextEvent = .tick ∧ s.block.run = true) → ¬(s.block.town ≠ .servo ∧ t.block.town = .servo) →
      t.block.cnt = s.block.cnt)

/-- R27, R72 (Q9): the active queue changes only by the arming and by a commit at a frame wrap; the shadow queue is written only
by INIT_SERVO and INIT_SERVOS while armed. -/
def Obligations.ScheduleChangesOnlyAtArmingOrWrap : Prop :=
  ∀ s t : State, BlockOk Config.frameTicks s.block → step s = .next t →
    (t.block.evq ≠ s.block.evq ∨ t.block.evn ≠ s.block.evn →
      (s.OffersCommand .initServos ∧ s.block.town = .free ∧ t.block.town = .servo) ∨
      (s.nextEvent = .service ∧ s.block.pend = true ∧ Config.frameTicks ≤ s.block.now.toNat ∧
        t.block.evq = s.block.shq ∧ t.block.evn = s.block.shn ∧ t.block.pend = false)) ∧
    (t.block.shq ≠ s.block.shq ∨ t.block.shn ≠ s.block.shn →
      s.block.town = .servo ∧ t.block.pend = true ∧
        (s.OffersCommand .initServos ∨ ∃ idx port pin rest pw, s.OffersCommand (.initServo idx port pin rest pw)))

/-- R70, R187 (Q11): while GIE = 0 no step but an INIT_SERVOS changes the sequencer position, the compare register, the frame
base, the active queue or OVR. -/
def Obligations.CriticalSectionHoldsTheSchedule : Prop :=
  ∀ s t : State, step s = .next t → s.block.gie = false → ¬ s.OffersCommand .initServos →
    t.block.evi = s.block.evi ∧ t.block.phase = s.block.phase ∧ t.block.ocr = s.block.ocr ∧
    t.block.fbase = s.block.fbase ∧ t.block.evq = s.block.evq ∧ t.block.evn = s.block.evn ∧ t.block.ovr = s.block.ovr

/-- R67 (Q10), R183: every command but GPIO_TGL and an arming INIT_SERVOS leaves, when repeated, what its first issue left; an
INIT_SERVOS repeated after the arming leaves a shadow queue identical to the active one. -/
def Obligations.RepeatedCommandsAreIdempotent : Prop :=
  ∀ (i : Instr) (s t u : State), exec i s = .next t → exec i t = .next u →
    ((∀ p m, i ≠ .gpioTgl p m) → ¬(i = .initServos ∧ s.block.town = .free ∧ t.block.town = .servo) → u.block = t.block) ∧
    (i = .initServos → s.block.town = .free → t.block.town = .servo →
      u.block = { t.block with shq := t.block.evq, shn := t.block.evn, pend := true })

/-! ### SERVICE steps of any lateness -/

/-- R155 to R159 (95 2.4 V8, V9): a SERVICE step so late that it executes the marker applies the rest of the old frame, moves the
frame base on by every whole frame that has passed, commits a pending schedule, drives the queue's pins active, and applies the
entries before `j` of the frame it ends in; OVR counts the step if an entry of the old frame lay beyond the compare's tick, or if
any entry of a new frame was applied. For every FRAME, and as a step of the machine for its own. -/
def Obligations.LateServiceRunsThroughFrames : Prop :=
  (∀ (frame : Nat) (b : Block) (j : Nat), 2 ≤ frame → frame ≤ 65535 → BlockSound frame b → b.interruptEnabled = true →
    let q := if b.pend then b.shq else b.evq
    let n := if b.pend then b.shn else b.evn
    let first := b.evi.toNat
    let count := b.evn.toNat - first
    let frameTick := b.now.toNat % frame
    let fbase := b.fbase + BitVec.ofNat 16 (b.now.toNat / frame * frame)
    let afterOld := ((List.range' first (count - 1)).map (entryAt b.evq)).foldl
      (fun ports e => drive ports e.port e.pin e.level) (if b.phase = .active then (doActive b).ports else b.ports)
    let afterActive := ((List.range (n.toNat - 1)).map (entryAt q)).foldl
      (fun ports e => drive ports e.port e.pin (!e.level)) afterOld
    frame ≤ b.now.toNat → j ≤ n.toNat - 1 →
    (∀ k, k < j → (entryAt q k).tick.toNat ≤ frameTick) → frameTick < (entryAt q j).tick.toNat →
    service frame b = some { b with
      evq := q
      evn := n
      pend := false
      ocf := false
      phase := .scheduled
      evi := BitVec.ofNat 3 j
      fbase := fbase
      ocr := fbase + (entryAt q j).tick
      ports := ((List.range j).map (entryAt q)).foldl (fun ports e => drive ports e.port e.pin e.level) afterActive
      ovr := if ((List.range' first count).any fun k => decide (b.armedFor.toNat < (entryAt b.evq k).tick.toNat)) ||
            decide ((entryAt q 0).tick.toNat ≤ b.now.toNat - frame)
        then BitVec.ofNat 16 (min (b.ovr.toNat + 1) 65535) else b.ovr }) ∧
  (∀ (s : State) (b : Block), s.Live → s.nextEvent = .service → s.block.interruptEnabled = true →
    service Config.frameTicks s.block = some b → step s = .next { s.dropEvent with response := none, block := b })

/-- R158, R155 (Q7): an enabled SERVICE step of a sound block raises OVR by one, saturating, exactly if it applies a missed event:
a due entry of the frame in progress whose tick is later than the tick the compare was programmed for, or, after a wrap in the
step, any entry of the new frame. -/
def Obligations.ServiceCountsMissedEvents : Prop :=
  ∀ s : State, s.Live → BlockSound Config.frameTicks s.block → s.nextEvent = .service → s.block.interruptEnabled = true →
    let q := if s.block.pend then s.block.shq else s.block.evq
    let missedNow := ∃ k, s.block.evi.toNat ≤ k ∧ k ≤ s.block.evn.toNat - 1 ∧
      (entryAt s.block.evq k).tick.toNat ≤ s.block.now.toNat ∧ s.block.armedFor.toNat < (entryAt s.block.evq k).tick.toNat
    let missedAfterWrap := Config.frameTicks ≤ s.block.now.toNat ∧
      (entryAt q 0).tick.toNat ≤ s.block.now.toNat - Config.frameTicks
    ∃ t, step s = .next t ∧
      (missedNow ∨ missedAfterWrap → t.block.ovr.toNat = min (s.block.ovr.toNat + 1) 65535) ∧
      (¬(missedNow ∨ missedAfterWrap) → t.block.ovr = s.block.ovr)
end

