-- ==== Sys2Proof/Laws/State.lean ====
section
/-! SUPPORT. One lemma per field of every named update of the block and of the machine, true by unfolding it once. -/

namespace Sys2Proof.Machine

/-! ### `Block.setChannel` -/

@[simp] theorem Block.setChannel_ch (b : Block) (i : Fin 6) (c : Channel) : (b.setChannel i c).ch = b.ch.set i c := rfl
@[simp] theorem Block.setChannel_evq (b : Block) (i : Fin 6) (c : Channel) : (b.setChannel i c).evq = b.evq := rfl
@[simp] theorem Block.setChannel_evn (b : Block) (i : Fin 6) (c : Channel) : (b.setChannel i c).evn = b.evn := rfl
@[simp] theorem Block.setChannel_shq (b : Block) (i : Fin 6) (c : Channel) : (b.setChannel i c).shq = b.shq := rfl
@[simp] theorem Block.setChannel_shn (b : Block) (i : Fin 6) (c : Channel) : (b.setChannel i c).shn = b.shn := rfl
@[simp] theorem Block.setChannel_pend (b : Block) (i : Fin 6) (c : Channel) : (b.setChannel i c).pend = b.pend := rfl
@[simp] theorem Block.setChannel_evi (b : Block) (i : Fin 6) (c : Channel) : (b.setChannel i c).evi = b.evi := rfl
@[simp] theorem Block.setChannel_phase (b : Block) (i : Fin 6) (c : Channel) : (b.setChannel i c).phase = b.phase := rfl
@[simp] theorem Block.setChannel_cnt (b : Block) (i : Fin 6) (c : Channel) : (b.setChannel i c).cnt = b.cnt := rfl
@[simp] theorem Block.setChannel_ocr (b : Block) (i : Fin 6) (c : Channel) : (b.setChannel i c).ocr = b.ocr := rfl
@[simp] theorem Block.setChannel_fbase (b : Block) (i : Fin 6) (c : Channel) : (b.setChannel i c).fbase = b.fbase := rfl
@[simp] theorem Block.setChannel_run (b : Block) (i : Fin 6) (c : Channel) : (b.setChannel i c).run = b.run := rfl
@[simp] theorem Block.setChannel_ocie (b : Block) (i : Fin 6) (c : Channel) : (b.setChannel i c).ocie = b.ocie := rfl
@[simp] theorem Block.setChannel_ocf (b : Block) (i : Fin 6) (c : Channel) : (b.setChannel i c).ocf = b.ocf := rfl
@[simp] theorem Block.setChannel_gie (b : Block) (i : Fin 6) (c : Channel) : (b.setChannel i c).gie = b.gie := rfl
@[simp] theorem Block.setChannel_town (b : Block) (i : Fin 6) (c : Channel) : (b.setChannel i c).town = b.town := rfl
@[simp] theorem Block.setChannel_ovr (b : Block) (i : Fin 6) (c : Channel) : (b.setChannel i c).ovr = b.ovr := rfl
@[simp] theorem Block.setChannel_fault (b : Block) (i : Fin 6) (c : Channel) : (b.setChannel i c).fault = b.fault := rfl
@[simp] theorem Block.setChannel_ports (b : Block) (i : Fin 6) (c : Channel) : (b.setChannel i c).ports = b.ports := rfl

/-! ### `Block.setPort` -/

@[simp] theorem Block.setPort_ch (b : Block) (p : PortId) (v : PortBits) : (b.setPort p v).ch = b.ch := rfl
@[simp] theorem Block.setPort_evq (b : Block) (p : PortId) (v : PortBits) : (b.setPort p v).evq = b.evq := rfl
@[simp] theorem Block.setPort_evn (b : Block) (p : PortId) (v : PortBits) : (b.setPort p v).evn = b.evn := rfl
@[simp] theorem Block.setPort_shq (b : Block) (p : PortId) (v : PortBits) : (b.setPort p v).shq = b.shq := rfl
@[simp] theorem Block.setPort_shn (b : Block) (p : PortId) (v : PortBits) : (b.setPort p v).shn = b.shn := rfl
@[simp] theorem Block.setPort_pend (b : Block) (p : PortId) (v : PortBits) : (b.setPort p v).pend = b.pend := rfl
@[simp] theorem Block.setPort_evi (b : Block) (p : PortId) (v : PortBits) : (b.setPort p v).evi = b.evi := rfl
@[simp] theorem Block.setPort_phase (b : Block) (p : PortId) (v : PortBits) : (b.setPort p v).phase = b.phase := rfl
@[simp] theorem Block.setPort_cnt (b : Block) (p : PortId) (v : PortBits) : (b.setPort p v).cnt = b.cnt := rfl
@[simp] theorem Block.setPort_ocr (b : Block) (p : PortId) (v : PortBits) : (b.setPort p v).ocr = b.ocr := rfl
@[simp] theorem Block.setPort_fbase (b : Block) (p : PortId) (v : PortBits) : (b.setPort p v).fbase = b.fbase := rfl
@[simp] theorem Block.setPort_run (b : Block) (p : PortId) (v : PortBits) : (b.setPort p v).run = b.run := rfl
@[simp] theorem Block.setPort_ocie (b : Block) (p : PortId) (v : PortBits) : (b.setPort p v).ocie = b.ocie := rfl
@[simp] theorem Block.setPort_ocf (b : Block) (p : PortId) (v : PortBits) : (b.setPort p v).ocf = b.ocf := rfl
@[simp] theorem Block.setPort_gie (b : Block) (p : PortId) (v : PortBits) : (b.setPort p v).gie = b.gie := rfl
@[simp] theorem Block.setPort_town (b : Block) (p : PortId) (v : PortBits) : (b.setPort p v).town = b.town := rfl
@[simp] theorem Block.setPort_ovr (b : Block) (p : PortId) (v : PortBits) : (b.setPort p v).ovr = b.ovr := rfl
@[simp] theorem Block.setPort_fault (b : Block) (p : PortId) (v : PortBits) : (b.setPort p v).fault = b.fault := rfl
@[simp] theorem Block.setPort_ports (b : Block) (p : PortId) (v : PortBits) : (b.setPort p v).ports = b.ports.set p.toNat v p.isLt := rfl

/-! ### `Block.setShadow` -/

@[simp] theorem Block.setShadow_ch (b : Block) (q : Vector Entry 7) (n : BitVec 3) : (b.setShadow q n).ch = b.ch := rfl
@[simp] theorem Block.setShadow_evq (b : Block) (q : Vector Entry 7) (n : BitVec 3) : (b.setShadow q n).evq = b.evq := rfl
@[simp] theorem Block.setShadow_evn (b : Block) (q : Vector Entry 7) (n : BitVec 3) : (b.setShadow q n).evn = b.evn := rfl
@[simp] theorem Block.setShadow_shq (b : Block) (q : Vector Entry 7) (n : BitVec 3) : (b.setShadow q n).shq = q := rfl
@[simp] theorem Block.setShadow_shn (b : Block) (q : Vector Entry 7) (n : BitVec 3) : (b.setShadow q n).shn = n := rfl
@[simp] theorem Block.setShadow_pend (b : Block) (q : Vector Entry 7) (n : BitVec 3) : (b.setShadow q n).pend = true := rfl
@[simp] theorem Block.setShadow_evi (b : Block) (q : Vector Entry 7) (n : BitVec 3) : (b.setShadow q n).evi = b.evi := rfl
@[simp] theorem Block.setShadow_phase (b : Block) (q : Vector Entry 7) (n : BitVec 3) : (b.setShadow q n).phase = b.phase := rfl
@[simp] theorem Block.setShadow_cnt (b : Block) (q : Vector Entry 7) (n : BitVec 3) : (b.setShadow q n).cnt = b.cnt := rfl
@[simp] theorem Block.setShadow_ocr (b : Block) (q : Vector Entry 7) (n : BitVec 3) : (b.setShadow q n).ocr = b.ocr := rfl
@[simp] theorem Block.setShadow_fbase (b : Block) (q : Vector Entry 7) (n : BitVec 3) : (b.setShadow q n).fbase = b.fbase := rfl
@[simp] theorem Block.setShadow_run (b : Block) (q : Vector Entry 7) (n : BitVec 3) : (b.setShadow q n).run = b.run := rfl
@[simp] theorem Block.setShadow_ocie (b : Block) (q : Vector Entry 7) (n : BitVec 3) : (b.setShadow q n).ocie = b.ocie := rfl
@[simp] theorem Block.setShadow_ocf (b : Block) (q : Vector Entry 7) (n : BitVec 3) : (b.setShadow q n).ocf = b.ocf := rfl
@[simp] theorem Block.setShadow_gie (b : Block) (q : Vector Entry 7) (n : BitVec 3) : (b.setShadow q n).gie = b.gie := rfl
@[simp] theorem Block.setShadow_town (b : Block) (q : Vector Entry 7) (n : BitVec 3) : (b.setShadow q n).town = b.town := rfl
@[simp] theorem Block.setShadow_ovr (b : Block) (q : Vector Entry 7) (n : BitVec 3) : (b.setShadow q n).ovr = b.ovr := rfl
@[simp] theorem Block.setShadow_fault (b : Block) (q : Vector Entry 7) (n : BitVec 3) : (b.setShadow q n).fault = b.fault := rfl
@[simp] theorem Block.setShadow_ports (b : Block) (q : Vector Entry 7) (n : BitVec 3) : (b.setShadow q n).ports = b.ports := rfl

/-! ### `Block.arm` -/

@[simp] theorem Block.arm_ch (b : Block) (q : Vector Entry 7) (n : BitVec 3) : (b.arm q n).ch = b.ch := rfl
@[simp] theorem Block.arm_evq (b : Block) (q : Vector Entry 7) (n : BitVec 3) : (b.arm q n).evq = q := rfl
@[simp] theorem Block.arm_evn (b : Block) (q : Vector Entry 7) (n : BitVec 3) : (b.arm q n).evn = n := rfl
@[simp] theorem Block.arm_shq (b : Block) (q : Vector Entry 7) (n : BitVec 3) : (b.arm q n).shq = b.shq := rfl
@[simp] theorem Block.arm_shn (b : Block) (q : Vector Entry 7) (n : BitVec 3) : (b.arm q n).shn = b.shn := rfl
@[simp] theorem Block.arm_pend (b : Block) (q : Vector Entry 7) (n : BitVec 3) : (b.arm q n).pend = false := rfl
@[simp] theorem Block.arm_evi (b : Block) (q : Vector Entry 7) (n : BitVec 3) : (b.arm q n).evi = 0 := rfl
@[simp] theorem Block.arm_phase (b : Block) (q : Vector Entry 7) (n : BitVec 3) : (b.arm q n).phase = .active := rfl
@[simp] theorem Block.arm_cnt (b : Block) (q : Vector Entry 7) (n : BitVec 3) : (b.arm q n).cnt = 0 := rfl
@[simp] theorem Block.arm_ocr (b : Block) (q : Vector Entry 7) (n : BitVec 3) : (b.arm q n).ocr = 0 := rfl
@[simp] theorem Block.arm_fbase (b : Block) (q : Vector Entry 7) (n : BitVec 3) : (b.arm q n).fbase = 0 := rfl
@[simp] theorem Block.arm_run (b : Block) (q : Vector Entry 7) (n : BitVec 3) : (b.arm q n).run = true := rfl
@[simp] theorem Block.arm_ocie (b : Block) (q : Vector Entry 7) (n : BitVec 3) : (b.arm q n).ocie = true := rfl
@[simp] theorem Block.arm_ocf (b : Block) (q : Vector Entry 7) (n : BitVec 3) : (b.arm q n).ocf = true := rfl
@[simp] theorem Block.arm_gie (b : Block) (q : Vector Entry 7) (n : BitVec 3) : (b.arm q n).gie = b.gie := rfl
@[simp] theorem Block.arm_town (b : Block) (q : Vector Entry 7) (n : BitVec 3) : (b.arm q n).town = .servo := rfl
@[simp] theorem Block.arm_ovr (b : Block) (q : Vector Entry 7) (n : BitVec 3) : (b.arm q n).ovr = b.ovr := rfl
@[simp] theorem Block.arm_fault (b : Block) (q : Vector Entry 7) (n : BitVec 3) : (b.arm q n).fault = b.fault := rfl
@[simp] theorem Block.arm_ports (b : Block) (q : Vector Entry 7) (n : BitVec 3) : (b.arm q n).ports = b.ports := rfl

/-! ### `Block.disarm` -/

@[simp] theorem Block.disarm_ch (b : Block) : (b.disarm).ch = b.ch := rfl
@[simp] theorem Block.disarm_evq (b : Block) : (b.disarm).evq = b.evq := rfl
@[simp] theorem Block.disarm_evn (b : Block) : (b.disarm).evn = b.evn := rfl
@[simp] theorem Block.disarm_shq (b : Block) : (b.disarm).shq = b.shq := rfl
@[simp] theorem Block.disarm_shn (b : Block) : (b.disarm).shn = b.shn := rfl
@[simp] theorem Block.disarm_pend (b : Block) : (b.disarm).pend = false := rfl
@[simp] theorem Block.disarm_evi (b : Block) : (b.disarm).evi = b.evi := rfl
@[simp] theorem Block.disarm_phase (b : Block) : (b.disarm).phase = b.phase := rfl
@[simp] theorem Block.disarm_cnt (b : Block) : (b.disarm).cnt = b.cnt := rfl
@[simp] theorem Block.disarm_ocr (b : Block) : (b.disarm).ocr = b.ocr := rfl
@[simp] theorem Block.disarm_fbase (b : Block) : (b.disarm).fbase = b.fbase := rfl
@[simp] theorem Block.disarm_run (b : Block) : (b.disarm).run = false := rfl
@[simp] theorem Block.disarm_ocie (b : Block) : (b.disarm).ocie = false := rfl
@[simp] theorem Block.disarm_ocf (b : Block) : (b.disarm).ocf = false := rfl
@[simp] theorem Block.disarm_gie (b : Block) : (b.disarm).gie = b.gie := rfl
@[simp] theorem Block.disarm_town (b : Block) : (b.disarm).town = .free := rfl
@[simp] theorem Block.disarm_ovr (b : Block) : (b.disarm).ovr = b.ovr := rfl
@[simp] theorem Block.disarm_fault (b : Block) : (b.disarm).fault = b.fault := rfl
@[simp] theorem Block.disarm_ports (b : Block) : (b.disarm).ports = b.ports := rfl

/-! ### `Block.takeInterrupt` -/

@[simp] theorem Block.takeInterrupt_ch (b : Block) : (b.takeInterrupt).ch = b.ch := rfl
@[simp] theorem Block.takeInterrupt_evq (b : Block) : (b.takeInterrupt).evq = b.evq := rfl
@[simp] theorem Block.takeInterrupt_evn (b : Block) : (b.takeInterrupt).evn = b.evn := rfl
@[simp] theorem Block.takeInterrupt_shq (b : Block) : (b.takeInterrupt).shq = b.shq := rfl
@[simp] theorem Block.takeInterrupt_shn (b : Block) : (b.takeInterrupt).shn = b.shn := rfl
@[simp] theorem Block.takeInterrupt_pend (b : Block) : (b.takeInterrupt).pend = b.pend := rfl
@[simp] theorem Block.takeInterrupt_evi (b : Block) : (b.takeInterrupt).evi = b.evi := rfl
@[simp] theorem Block.takeInterrupt_phase (b : Block) : (b.takeInterrupt).phase = b.phase := rfl
@[simp] theorem Block.takeInterrupt_cnt (b : Block) : (b.takeInterrupt).cnt = b.cnt := rfl
@[simp] theorem Block.takeInterrupt_ocr (b : Block) : (b.takeInterrupt).ocr = b.ocr := rfl
@[simp] theorem Block.takeInterrupt_fbase (b : Block) : (b.takeInterrupt).fbase = b.fbase := rfl
@[simp] theorem Block.takeInterrupt_run (b : Block) : (b.takeInterrupt).run = b.run := rfl
@[simp] theorem Block.takeInterrupt_ocie (b : Block) : (b.takeInterrupt).ocie = b.ocie := rfl
@[simp] theorem Block.takeInterrupt_ocf (b : Block) : (b.takeInterrupt).ocf = false := rfl
@[simp] theorem Block.takeInterrupt_gie (b : Block) : (b.takeInterrupt).gie = b.gie := rfl
@[simp] theorem Block.takeInterrupt_town (b : Block) : (b.takeInterrupt).town = b.town := rfl
@[simp] theorem Block.takeInterrupt_ovr (b : Block) : (b.takeInterrupt).ovr = b.ovr := rfl
@[simp] theorem Block.takeInterrupt_fault (b : Block) : (b.takeInterrupt).fault = b.fault := rfl
@[simp] theorem Block.takeInterrupt_ports (b : Block) : (b.takeInterrupt).ports = b.ports := rfl

/-! ### `doActive` -/

@[simp] theorem doActive_ch (b : Block) : (doActive b).ch = b.ch := rfl
@[simp] theorem doActive_evq (b : Block) : (doActive b).evq = b.evq := rfl
@[simp] theorem doActive_evn (b : Block) : (doActive b).evn = b.evn := rfl
@[simp] theorem doActive_shq (b : Block) : (doActive b).shq = b.shq := rfl
@[simp] theorem doActive_shn (b : Block) : (doActive b).shn = b.shn := rfl
@[simp] theorem doActive_pend (b : Block) : (doActive b).pend = b.pend := rfl
@[simp] theorem doActive_evi (b : Block) : (doActive b).evi = b.evi := rfl
@[simp] theorem doActive_phase (b : Block) : (doActive b).phase = b.phase := rfl
@[simp] theorem doActive_cnt (b : Block) : (doActive b).cnt = b.cnt := rfl
@[simp] theorem doActive_ocr (b : Block) : (doActive b).ocr = b.ocr := rfl
@[simp] theorem doActive_fbase (b : Block) : (doActive b).fbase = b.fbase := rfl
@[simp] theorem doActive_run (b : Block) : (doActive b).run = b.run := rfl
@[simp] theorem doActive_ocie (b : Block) : (doActive b).ocie = b.ocie := rfl
@[simp] theorem doActive_ocf (b : Block) : (doActive b).ocf = b.ocf := rfl
@[simp] theorem doActive_gie (b : Block) : (doActive b).gie = b.gie := rfl
@[simp] theorem doActive_town (b : Block) : (doActive b).town = b.town := rfl
@[simp] theorem doActive_ovr (b : Block) : (doActive b).ovr = b.ovr := rfl
@[simp] theorem doActive_fault (b : Block) : (doActive b).fault = b.fault := rfl
@[simp] theorem doActive_ports (b : Block) : (doActive b).ports = b.scheduled.foldl (fun ports e => drive ports e.port e.pin (!e.level)) b.ports := rfl

/-! ### `tick` -/

@[simp] theorem tick_ch (b : Block) : (tick b).ch = b.ch := rfl
@[simp] theorem tick_evq (b : Block) : (tick b).evq = b.evq := rfl
@[simp] theorem tick_evn (b : Block) : (tick b).evn = b.evn := rfl
@[simp] theorem tick_shq (b : Block) : (tick b).shq = b.shq := rfl
@[simp] theorem tick_shn (b : Block) : (tick b).shn = b.shn := rfl
@[simp] theorem tick_pend (b : Block) : (tick b).pend = b.pend := rfl
@[simp] theorem tick_evi (b : Block) : (tick b).evi = b.evi := rfl
@[simp] theorem tick_phase (b : Block) : (tick b).phase = b.phase := rfl
@[simp] theorem tick_cnt (b : Block) : (tick b).cnt = b.cnt + 1 := rfl
@[simp] theorem tick_ocr (b : Block) : (tick b).ocr = b.ocr := rfl
@[simp] theorem tick_fbase (b : Block) : (tick b).fbase = b.fbase := rfl
@[simp] theorem tick_run (b : Block) : (tick b).run = b.run := rfl
@[simp] theorem tick_ocie (b : Block) : (tick b).ocie = b.ocie := rfl
@[simp] theorem tick_ocf (b : Block) : (tick b).ocf = ocfAfterTick b.ocf (b.cnt + 1) b.ocr := rfl
@[simp] theorem tick_gie (b : Block) : (tick b).gie = b.gie := rfl
@[simp] theorem tick_town (b : Block) : (tick b).town = b.town := rfl
@[simp] theorem tick_ovr (b : Block) : (tick b).ovr = b.ovr := rfl
@[simp] theorem tick_fault (b : Block) : (tick b).fault = b.fault := rfl
@[simp] theorem tick_ports (b : Block) : (tick b).ports = b.ports := rfl

/-! ### `Block.commit` -/

@[simp] theorem Block.commit_ch (b : Block) : b.commit.ch = b.ch := by
  unfold Block.commit; split <;> rfl
@[simp] theorem Block.commit_evq (b : Block) : b.commit.evq = if b.pend then b.shq else b.evq := by
  unfold Block.commit; split <;> rfl
@[simp] theorem Block.commit_evn (b : Block) : b.commit.evn = if b.pend then b.shn else b.evn := by
  unfold Block.commit; split <;> rfl
@[simp] theorem Block.commit_shq (b : Block) : b.commit.shq = b.shq := by
  unfold Block.commit; split <;> rfl
@[simp] theorem Block.commit_shn (b : Block) : b.commit.shn = b.shn := by
  unfold Block.commit; split <;> rfl
@[simp] theorem Block.commit_pend (b : Block) : b.commit.pend = false := by
  unfold Block.commit; split <;> simp_all
@[simp] theorem Block.commit_evi (b : Block) : b.commit.evi = b.evi := by
  unfold Block.commit; split <;> rfl
@[simp] theorem Block.commit_phase (b : Block) : b.commit.phase = b.phase := by
  unfold Block.commit; split <;> rfl
@[simp] theorem Block.commit_cnt (b : Block) : b.commit.cnt = b.cnt := by
  unfold Block.commit; split <;> rfl
@[simp] theorem Block.commit_ocr (b : Block) : b.commit.ocr = b.ocr := by
  unfold Block.commit; split <;> rfl
@[simp] theorem Block.commit_fbase (b : Block) : b.commit.fbase = b.fbase := by
  unfold Block.commit; split <;> rfl
@[simp] theorem Block.commit_run (b : Block) : b.commit.run = b.run := by
  unfold Block.commit; split <;> rfl
@[simp] theorem Block.commit_ocie (b : Block) : b.commit.ocie = b.ocie := by
  unfold Block.commit; split <;> rfl
@[simp] theorem Block.commit_ocf (b : Block) : b.commit.ocf = b.ocf := by
  unfold Block.commit; split <;> rfl
@[simp] theorem Block.commit_gie (b : Block) : b.commit.gie = b.gie := by
  unfold Block.commit; split <;> rfl
@[simp] theorem Block.commit_town (b : Block) : b.commit.town = b.town := by
  unfold Block.commit; split <;> rfl
@[simp] theorem Block.commit_ovr (b : Block) : b.commit.ovr = b.ovr := by
  unfold Block.commit; split <;> rfl
@[simp] theorem Block.commit_fault (b : Block) : b.commit.fault = b.fault := by
  unfold Block.commit; split <;> rfl
@[simp] theorem Block.commit_ports (b : Block) : b.commit.ports = b.ports := by
  unfold Block.commit; split <;> rfl

/-! ### `enterFrame` -/

@[simp] theorem enterFrame_ch (b : Block) : (enterFrame b).ch = b.ch := by
  unfold enterFrame; split <;> rfl
@[simp] theorem enterFrame_evq (b : Block) : (enterFrame b).evq = b.evq := by
  unfold enterFrame; split <;> rfl
@[simp] theorem enterFrame_evn (b : Block) : (enterFrame b).evn = b.evn := by
  unfold enterFrame; split <;> rfl
@[simp] theorem enterFrame_shq (b : Block) : (enterFrame b).shq = b.shq := by
  unfold enterFrame; split <;> rfl
@[simp] theorem enterFrame_shn (b : Block) : (enterFrame b).shn = b.shn := by
  unfold enterFrame; split <;> rfl
@[simp] theorem enterFrame_pend (b : Block) : (enterFrame b).pend = b.pend := by
  unfold enterFrame; split <;> rfl
@[simp] theorem enterFrame_evi (b : Block) : (enterFrame b).evi = b.evi := by
  unfold enterFrame; split <;> rfl
@[simp] theorem enterFrame_phase (b : Block) : (enterFrame b).phase = .scheduled := by
  unfold enterFrame; split <;> simp_all
@[simp] theorem enterFrame_cnt (b : Block) : (enterFrame b).cnt = b.cnt := by
  unfold enterFrame; split <;> rfl
@[simp] theorem enterFrame_ocr (b : Block) : (enterFrame b).ocr = b.ocr := by
  unfold enterFrame; split <;> rfl
@[simp] theorem enterFrame_fbase (b : Block) : (enterFrame b).fbase = b.fbase := by
  unfold enterFrame; split <;> rfl
@[simp] theorem enterFrame_run (b : Block) : (enterFrame b).run = b.run := by
  unfold enterFrame; split <;> rfl
@[simp] theorem enterFrame_ocie (b : Block) : (enterFrame b).ocie = b.ocie := by
  unfold enterFrame; split <;> rfl
@[simp] theorem enterFrame_ocf (b : Block) : (enterFrame b).ocf = b.ocf := by
  unfold enterFrame; split <;> rfl
@[simp] theorem enterFrame_gie (b : Block) : (enterFrame b).gie = b.gie := by
  unfold enterFrame; split <;> rfl
@[simp] theorem enterFrame_town (b : Block) : (enterFrame b).town = b.town := by
  unfold enterFrame; split <;> rfl
@[simp] theorem enterFrame_ovr (b : Block) : (enterFrame b).ovr = b.ovr := by
  unfold enterFrame; split <;> rfl
@[simp] theorem enterFrame_fault (b : Block) : (enterFrame b).fault = b.fault := by
  unfold enterFrame; split <;> rfl
@[simp] theorem enterFrame_ports (b : Block) :
    (enterFrame b).ports = if b.phase = .active then (doActive b).ports else b.ports := by
  unfold enterFrame; split <;> simp_all

/-! ### `finishService` -/

@[simp] theorem finishService_ch (w : Sweep) : (finishService w).ch = w.block.ch := rfl
@[simp] theorem finishService_evq (w : Sweep) : (finishService w).evq = w.block.evq := rfl
@[simp] theorem finishService_evn (w : Sweep) : (finishService w).evn = w.block.evn := rfl
@[simp] theorem finishService_shq (w : Sweep) : (finishService w).shq = w.block.shq := rfl
@[simp] theorem finishService_shn (w : Sweep) : (finishService w).shn = w.block.shn := rfl
@[simp] theorem finishService_pend (w : Sweep) : (finishService w).pend = w.block.pend := rfl
@[simp] theorem finishService_evi (w : Sweep) : (finishService w).evi = w.block.evi := rfl
@[simp] theorem finishService_phase (w : Sweep) : (finishService w).phase = w.block.phase := rfl
@[simp] theorem finishService_cnt (w : Sweep) : (finishService w).cnt = w.block.cnt := rfl
@[simp] theorem finishService_ocr (w : Sweep) : (finishService w).ocr = w.block.fbase + (entryAt w.block.evq w.block.evi.toNat).tick := rfl
@[simp] theorem finishService_fbase (w : Sweep) : (finishService w).fbase = w.block.fbase := rfl
@[simp] theorem finishService_run (w : Sweep) : (finishService w).run = w.block.run := rfl
@[simp] theorem finishService_ocie (w : Sweep) : (finishService w).ocie = w.block.ocie := rfl
@[simp] theorem finishService_ocf (w : Sweep) : (finishService w).ocf = w.block.ocf := rfl
@[simp] theorem finishService_gie (w : Sweep) : (finishService w).gie = w.block.gie := rfl
@[simp] theorem finishService_town (w : Sweep) : (finishService w).town = w.block.town := rfl
@[simp] theorem finishService_ovr (w : Sweep) : (finishService w).ovr = ovrAfter w.block.ovr w.missed := rfl
@[simp] theorem finishService_fault (w : Sweep) : (finishService w).fault = w.block.fault := rfl
@[simp] theorem finishService_ports (w : Sweep) : (finishService w).ports = w.block.ports := rfl

/-! ### The machine -/

@[simp] theorem State.answer_block (s : State) (r : Reply) : (s.answer r).block = r.block := rfl
@[simp] theorem State.answer_response (s : State) (r : Reply) : (s.answer r).response = some (responseWord r.status r.data) := rfl
@[simp] theorem State.answer_inputs (s : State) (r : Reply) : (s.answer r).inputs = s.inputs := rfl
@[simp] theorem State.answer_freeIndex (s : State) (r : Reply) : (s.answer r).freeIndex = s.freeIndex := rfl
@[simp] theorem State.silent_block (s : State) (b : Block) : (s.silent b).block = b := rfl
@[simp] theorem State.silent_response (s : State) (b : Block) : (s.silent b).response = none := rfl
@[simp] theorem State.silent_inputs (s : State) (b : Block) : (s.silent b).inputs = s.inputs := rfl
@[simp] theorem State.silent_freeIndex (s : State) (b : Block) : (s.silent b).freeIndex = s.freeIndex := rfl

@[simp] theorem State.dropEvent_block (s : State) : s.dropEvent.block = s.block := by
  unfold State.dropEvent; split <;> rfl
@[simp] theorem State.dropEvent_response (s : State) : s.dropEvent.response = s.response := by
  unfold State.dropEvent; split <;> rfl
@[simp] theorem State.dropEvent_inputs (s : State) : s.dropEvent.inputs = s.inputs.tail := by
  unfold State.dropEvent; split <;> simp_all
theorem State.nextEvent_cons (s : State) (e : Event) (es : List Event) (h : s.inputs = e :: es) : s.nextEvent = e := by
  simp [State.nextEvent, h]
theorem State.nextEvent_nil (s : State) (h : s.inputs = []) : s.nextEvent = Config.freeEvent s.freeIndex := by
  simp [State.nextEvent, h]

/-! ### Replies -/

@[simp] theorem done_block (b : Block) : (done b).block = b := rfl
@[simp] theorem done_status (b : Block) : (done b).status = .ok := rfl
@[simp] theorem done_data (b : Block) : (done b).data = 0 := rfl
@[simp] theorem readOut_block (b : Block) (d : Data) : (readOut b d).block = b := rfl
@[simp] theorem readOut_status (b : Block) (d : Data) : (readOut b d).status = .ok := rfl
@[simp] theorem readOut_data (b : Block) (d : Data) : (readOut b d).data = d := rfl
@[simp] theorem failed_block (b : Block) (st : Status) : (failed b st).block = b := rfl
@[simp] theorem failed_status (b : Block) (st : Status) : (failed b st).status = st := rfl
@[simp] theorem failed_data (b : Block) (st : Status) : (failed b st).data = 0 := rfl

end Sys2Proof.Machine
end

