-- ==== Sys2Proof/Laws/Build.lean ====
section
/-! SUPPORT. What BUILD returns (R131 to R135): the order of the slots, the places of the queue, and the three results. -/

namespace Sys2Proof.Laws

open Sys2Proof.Machine

/-! ### The order of the slots (R133) -/

theorem comesBefore_iff {reg : Registry} {i j : Fin 6} :
    comesBefore reg i j = true ↔ widthOf reg i < widthOf reg j ∨ (widthOf reg i = widthOf reg j ∧ i < j) := by
  simp [comesBefore]

theorem comesBefore_trans {reg : Registry} {i j k : Fin 6} (h : comesBefore reg i j = true) (h' : comesBefore reg j k = true) :
    comesBefore reg i k = true := by
  rw [comesBefore_iff] at *
  omega

theorem comesBefore_total {reg : Registry} {i j : Fin 6} (hne : i ≠ j) (h : comesBefore reg i j = false) :
    comesBefore reg j i = true := by
  rw [← Bool.not_eq_true, comesBefore_iff] at h
  rw [comesBefore_iff]
  omega

theorem mem_insertSlot {reg : Registry} {i k : Fin 6} : ∀ {l : List (Fin 6)}, k ∈ insertSlot reg i l ↔ k = i ∨ k ∈ l
  | [] => by simp [insertSlot]
  | j :: js => by
    unfold insertSlot
    split
    · simp
    · simp only [List.mem_cons, mem_insertSlot (l := js)]
      tauto

theorem length_insertSlot {reg : Registry} {i : Fin 6} : ∀ {l : List (Fin 6)}, (insertSlot reg i l).length = l.length + 1
  | [] => rfl
  | j :: js => by
    unfold insertSlot
    split
    · rfl
    · simp [length_insertSlot (l := js)]

theorem sum_insertSlot {reg : Registry} {i : Fin 6} :
    ∀ {l : List (Fin 6)}, totalWidth reg (insertSlot reg i l) = widthOf reg i + totalWidth reg l
  | [] => by simp [insertSlot, totalWidth]
  | j :: js => by
    unfold insertSlot
    split
    · simp [totalWidth]
    · have := sum_insertSlot (reg := reg) (i := i) (l := js)
      simp only [totalWidth, List.map_cons, List.sum_cons] at *
      omega

theorem insertSlot_pairwise {reg : Registry} {i : Fin 6} : ∀ {l : List (Fin 6)}, i ∉ l →
    l.Pairwise (fun a b => comesBefore reg a b = true) → (insertSlot reg i l).Pairwise (fun a b => comesBefore reg a b = true)
  | [], _, _ => by simp [insertSlot]
  | j :: js, hi, hl => by
    simp only [List.mem_cons, not_or] at hi
    rw [List.pairwise_cons] at hl
    unfold insertSlot
    split
    · next h =>
      refine List.pairwise_cons.2 ⟨?_, List.pairwise_cons.2 hl⟩
      intro b hb
      rcases List.mem_cons.1 hb with rfl | hb
      · exact h
      · exact comesBefore_trans h (hl.1 b hb)
    · next h =>
      refine List.pairwise_cons.2 ⟨?_, insertSlot_pairwise hi.2 hl.2⟩
      intro b hb
      rcases mem_insertSlot.1 hb with rfl | hb
      · exact comesBefore_total hi.1 (by simpa using h)
      · exact hl.1 b hb

theorem mem_foldr_insertSlot {reg : Registry} {k : Fin 6} :
    ∀ {l : List (Fin 6)}, k ∈ l.foldr (insertSlot reg) [] ↔ k ∈ l
  | [] => by simp
  | j :: js => by simp [mem_insertSlot, mem_foldr_insertSlot (l := js)]

theorem length_foldr_insertSlot {reg : Registry} :
    ∀ {l : List (Fin 6)}, (l.foldr (insertSlot reg) []).length = l.length
  | [] => rfl
  | j :: js => by simp [length_insertSlot, length_foldr_insertSlot (l := js)]

theorem foldr_insertSlot_pairwise {reg : Registry} : ∀ {l : List (Fin 6)}, l.Nodup →
    (l.foldr (insertSlot reg) []).Pairwise (fun a b => comesBefore reg a b = true)
  | [], _ => by simp
  | j :: js, h => by
    rw [List.nodup_cons] at h
    exact insertSlot_pairwise (fun hc => h.1 (mem_foldr_insertSlot.1 hc)) (foldr_insertSlot_pairwise h.2)

theorem totalWidth_foldr_insertSlot {reg : Registry} :
    ∀ {l : List (Fin 6)}, totalWidth reg (l.foldr (insertSlot reg) []) = totalWidth reg l
  | [] => rfl
  | j :: js => by
    rw [List.foldr_cons, sum_insertSlot, totalWidth_foldr_insertSlot (l := js)]
    simp [totalWidth]

theorem mem_validSlots {reg : Registry} {i : Fin 6} : i ∈ validSlots reg ↔ reg[i].valid = true := by
  have : i ∈ ([0, 1, 2, 3, 4, 5] : List (Fin 6)) := by revert i; decide
  simp [validSlots, List.mem_filter, this]

theorem validSlots_nodup (reg : Registry) : (validSlots reg).Nodup := List.Nodup.filter _ (by decide)

theorem length_validSlots_le (reg : Registry) : (validSlots reg).length ≤ 6 := List.length_filter_le _ _

/-- The slots of S are exactly the valid ones (R131). -/
theorem mem_sortedSlots {reg : Registry} {i : Fin 6} : i ∈ sortedSlots reg ↔ reg[i].valid = true := by
  rw [sortedSlots, mem_foldr_insertSlot, mem_validSlots]

/-- S is in order of width, then of index (R133). -/
theorem sortedSlots_pairwise (reg : Registry) : (sortedSlots reg).Pairwise (fun a b => comesBefore reg a b = true) :=
  foldr_insertSlot_pairwise (validSlots_nodup reg)

theorem length_sortedSlots_le (reg : Registry) : (sortedSlots reg).length ≤ 6 := by
  rw [sortedSlots, length_foldr_insertSlot]; exact length_validSlots_le reg

/-- The sum over S is the sum over the valid slots (R131, R132). -/
theorem totalWidth_sortedSlots (reg : Registry) : totalWidth reg (sortedSlots reg) = totalWidth reg (validSlots reg) :=
  totalWidth_foldr_insertSlot

/-- The last slot of S has the largest width (R131). -/
theorem width_le_lastWidth {reg : Registry} {i : Fin 6} (h : i ∈ sortedSlots reg) :
    widthOf reg i ≤ lastWidth reg (sortedSlots reg) := by
  have key : ∀ l : List (Fin 6), l.Pairwise (fun a b => comesBefore reg a b = true) → i ∈ l → widthOf reg i ≤ lastWidth reg l := by
    intro l hl hi
    rcases List.eq_nil_or_concat l with rfl | ⟨init, last, rfl⟩
    · simp at hi
    · rw [List.concat_eq_append] at hl hi ⊢
      simp only [lastWidth, List.getLast?_append, List.getLast?_singleton, Option.some_or, Option.map_some, Option.getD_some]
      rw [List.pairwise_append] at hl
      rcases List.mem_append.1 hi with hi | hi
      · have := comesBefore_iff.1 (hl.2.2 i hi last (by simp))
        omega
      · simp at hi; simp [hi]
  exact key _ (sortedSlots_pairwise reg) h

/-- The largest width is that of some valid slot. -/
theorem lastWidth_attained {reg : Registry} (h : sortedSlots reg ≠ []) :
    ∃ i, i ∈ sortedSlots reg ∧ widthOf reg i = lastWidth reg (sortedSlots reg) :=
  ⟨(sortedSlots reg).getLast h, List.getLast_mem h, by simp [lastWidth, List.getLast?_eq_some_getLast h]⟩

/-! ### The places of the queue (R134, R135) -/

theorem entryAt_queueOf {l : List Entry} (h : l.length ≤ 7) (k : Nat) : entryAt (queueOf l) k = l.getD k Entry.zero := by
  by_cases hk : k < 7
  · simp [entryAt, queueOf, hk]
  · have : l.length ≤ k := by omega
    simp [entryAt, queueOf, hk, List.getD, List.getElem?_eq_none this]

/-! ### The three results (R131, R132) -/

/-- BUILD is EMPTY exactly when no slot is valid. -/
theorem build_eq_empty_iff {frame : Nat} {reg : Registry} : build frame reg = .empty ↔ sortedSlots reg = [] := by
  unfold build
  simp only [List.isEmpty_iff]
  split
  · simp [*]
  · split
    · simp [*]
    · split <;> simp [*]

theorem build_ne_empty {frame : Nat} {reg : Registry} {i : Fin 6} (h : reg[i].valid = true) : build frame reg ≠ .empty := by
  rw [Ne, build_eq_empty_iff]
  intro hnil
  have := mem_sortedSlots.2 h
  simp [hnil] at this

/-- BUILD rejects exactly a non-empty registry whose widths sum to more than FRAME or whose largest width is not below it. -/
theorem build_eq_reject_iff {frame : Nat} {reg : Registry} :
    build frame reg = .reject ↔ sortedSlots reg ≠ [] ∧
      (frame < totalWidth reg (sortedSlots reg) ∨ frame ≤ lastWidth reg (sortedSlots reg)) := by
  unfold build
  simp only [List.isEmpty_iff]
  split
  · simp [*]
  · split
    · simp [*]
    · split <;> simp [*]

/-- What a built queue is. -/
theorem build_eq_built_iff {frame : Nat} {reg : Registry} {q : Vector Entry 7} {n : BitVec 3} :
    build frame reg = .built q n ↔ sortedSlots reg ≠ [] ∧ totalWidth reg (sortedSlots reg) ≤ frame ∧
      lastWidth reg (sortedSlots reg) < frame ∧
      q = queueOf ((sortedSlots reg).map (fun i => restEntry reg[i]) ++ [wrapMarker frame]) ∧
      n = BitVec.ofNat 3 ((sortedSlots reg).length + 1) := by
  unfold build
  simp only [List.isEmpty_iff]
  split
  · simp [*]
  · split
    · next h => simp; omega
    · split
      · next h => simp; omega
      · next h1 h2 h3 =>
        simp only [BuildResult.built.injEq]
        constructor
        · rintro ⟨rfl, rfl⟩; exact ⟨h1, by omega, by omega, rfl, rfl⟩
        · rintro ⟨-, -, -, rfl, rfl⟩; exact ⟨rfl, rfl⟩

/-- The length of a built queue as a number: one more than the number of valid slots, so 2..7. -/
theorem built_length {frame : Nat} {reg : Registry} {q : Vector Entry 7} {n : BitVec 3} (h : build frame reg = .built q n) :
    n.toNat = (sortedSlots reg).length + 1 := by
  obtain ⟨-, -, -, -, rfl⟩ := build_eq_built_iff.1 h
  have := length_sortedSlots_le reg
  simp only [BitVec.toNat_ofNat]
  omega

/-- The non-wrap entries of a built queue (R134). -/
theorem built_rest {frame : Nat} {reg : Registry} {q : Vector Entry 7} {n : BitVec 3} (h : build frame reg = .built q n)
    (k : Nat) (hk : k < (sortedSlots reg).length) : entryAt q k = restEntry reg[(sortedSlots reg)[k]] := by
  obtain ⟨-, -, -, rfl, -⟩ := build_eq_built_iff.1 h
  have := length_sortedSlots_le reg
  rw [entryAt_queueOf (by simp; omega)]
  simp [List.getD, List.getElem?_append, hk]

/-- The marker of a built queue (R134). -/
theorem built_marker {frame : Nat} {reg : Registry} {q : Vector Entry 7} {n : BitVec 3} (h : build frame reg = .built q n) :
    entryAt q (sortedSlots reg).length = wrapMarker frame := by
  obtain ⟨-, -, -, rfl, -⟩ := build_eq_built_iff.1 h
  have := length_sortedSlots_le reg
  rw [entryAt_queueOf (by simp; omega)]
  simp [List.getD]

/-- The places after the marker of a built queue (R135). -/
theorem built_unused {frame : Nat} {reg : Registry} {q : Vector Entry 7} {n : BitVec 3} (h : build frame reg = .built q n)
    (k : Nat) (hk : (sortedSlots reg).length < k) : entryAt q k = Entry.zero := by
  obtain ⟨-, -, -, rfl, -⟩ := build_eq_built_iff.1 h
  have := length_sortedSlots_le reg
  rw [entryAt_queueOf (by simp; omega)]
  have : k - (sortedSlots reg).length ≠ 0 := by omega
  simp [List.getD, List.getElem?_append, Nat.not_lt.2 (Nat.le_of_lt hk), this]

end Sys2Proof.Laws
end

