-- ==== Sys2Proof/Laws/Decode.lean ====
section
/-! SUPPORT. What the decoder's row search comes to: one row per opcode (R84). -/

namespace Sys2Proof.Laws

/-! ### Fields and places, bit by bit -/

@[simp] theorem getLsbD_field (w : Word) (lo len j : Nat) :
    (field w lo len).getLsbD j = (decide (j < len) && w.getLsbD (lo + j)) := by
  simp [field, BitVec.getLsbD_extractLsb']

@[simp] theorem getLsbD_place (width lo : Nat) {len : Nat} (v : BitVec len) (j : Nat) :
    (place width lo v).getLsbD j = (decide (j < width) && !decide (j < lo) && v.getLsbD (j - lo)) := by
  by_cases h : j < width <;> by_cases h' : j < lo <;> simp [place, h, h']

@[simp] theorem getLsbD_placeBit (width lo : Nat) (v : Bool) (j : Nat) :
    (placeBit width lo v).getLsbD j = (decide (j < width) && decide (j = lo) && v) := by
  unfold placeBit
  by_cases h : j = lo
  · simp [h]
  · by_cases h' : j < lo
    · simp [h, h']
    · have : j - lo ≠ 0 := by omega
      simp [h, BitVec.getLsbD_ofBool, this]

@[simp] theorem getElem_field (w : Word) (lo len j : Nat) (h : j < len) : (field w lo len)[j] = w.getLsbD (lo + j) := by
  rw [← BitVec.getLsbD_eq_getElem, getLsbD_field]; simp only [h, decide_true, Bool.true_and]

@[simp] theorem getElem_place (width lo : Nat) {len : Nat} (v : BitVec len) (j : Nat) (h : j < width) :
    (place width lo v)[j] = (!decide (j < lo) && v.getLsbD (j - lo)) := by
  rw [← BitVec.getLsbD_eq_getElem, getLsbD_place]; simp only [h, decide_true, Bool.true_and]

@[simp] theorem getElem_placeBit (width lo : Nat) (v : Bool) (j : Nat) (h : j < width) :
    (placeBit width lo v)[j] = (decide (j = lo) && v) := by
  rw [← BitVec.getLsbD_eq_getElem, getLsbD_placeBit]; simp only [h, decide_true, Bool.true_and]

theorem field_and (w m : Word) (lo len : Nat) : field (w &&& m) lo len = field w lo len &&& field m lo len := by
  unfold field
  ext i hi
  simp

/-- A row whose mask covers the opcode bits only covers words of its own opcode. -/
theorem opcode_of_covers {r : OpcodeRow} {w : Word} (hmask : field r.mask 28 4 = 0xF#4) (h : r.covers w = true) :
    opcodeOf w = field r.matchBits 28 4 := by
  have h' : w &&& r.mask = r.matchBits := by simpa [OpcodeRow.covers] using h
  rw [← h', field_and, hmask]
  exact (BitVec.and_allOnes (x := opcodeOf w)).symm

/-- Every mask of the map covers the opcode bits (R84). -/
theorem rows_mask_opcode : ∀ r ∈ opcodeRows, field r.mask 28 4 = 0xF#4 := by
  simp only [opcodeRows, List.forall_mem_cons, List.not_mem_nil, false_imp_iff, implies_true, and_true]
  decide

/-- The opcodes of the map, in order (R84). -/
theorem rows_opcodes : opcodeRows.map (fun r => (field r.matchBits 28 4).toNat) = List.range' 0 14 := by decide

/-- Searching a list whose elements carry consecutive keys, for a property only the key `n` can have. -/
theorem find_by_key {α : Type} (p : α → Bool) (key : α → Nat) (n : Nat) :
    ∀ (l : List α) (off : Nat), l.map key = List.range' off l.length → off ≤ n →
      (∀ r ∈ l, key r ≠ n → p r = false) → l.find? p = (l[n - off]?).filter p
  | [], off, _, _, _ => by simp
  | a :: l, off, hkeys, hoff, hmiss => by
    simp only [List.map_cons, List.length_cons, List.range'_succ, List.cons.injEq] at hkeys
    by_cases hn : n = off
    · subst hn
      cases ha : p a
      · have htail : ∀ r ∈ l, p r = false := fun r hr => hmiss r (List.mem_cons_of_mem _ hr) (by
          have : key r ∈ List.range' (n + 1) l.length := hkeys.2 ▸ List.mem_map_of_mem hr
          simp only [List.mem_range'_1] at this
          omega)
        simpa [ha, Option.filter] using htail
      · simp [ha, Option.filter]
    · have ha : p a = false := hmiss a List.mem_cons_self (by omega)
      have hidx : n - off = (n - (off + 1)) + 1 := by omega
      rw [List.find?_cons_of_neg (by simp [ha]), hidx, List.getElem?_cons_succ]
      exact find_by_key p key n l (off + 1) hkeys.2 (by omega) fun r hr => hmiss r (List.mem_cons_of_mem _ hr)

/-- The row search looks only at the row of the word's opcode (R84, R85). -/
theorem find_row (w : Word) :
    opcodeRows.find? (·.covers w) = (opcodeRows[(opcodeOf w).toNat]?).filter (·.covers w) := by
  simpa using find_by_key (fun r : OpcodeRow => r.covers w) (fun r => (field r.matchBits 28 4).toNat) (opcodeOf w).toNat
    opcodeRows 0 rows_opcodes (Nat.zero_le _) fun r hr hne => by
      by_contra hc
      exact hne (congrArg BitVec.toNat (opcode_of_covers (rows_mask_opcode r hr) (by simpa using hc))).symm

/-- A word whose opcode's row covers it decodes to that row's command. -/
theorem decode_of_row {w : Word} {r : OpcodeRow} (hr : opcodeRows[(opcodeOf w).toNat]? = some r) (hc : r.covers w = true) :
    decode w = .ok (r.command w) := by
  simp [decode, find_row, hr, Option.filter, hc]

/-- A word whose opcode's row does not cover it, or whose opcode has no row, is illegal. -/
theorem decode_of_no_row {w : Word} (h : ∀ r, opcodeRows[(opcodeOf w).toNat]? = some r → r.covers w = false) :
    decode w = .error (whyIllegal w) := by
  unfold decode
  rw [find_row]
  cases hr : opcodeRows[(opcodeOf w).toNat]? with
  | none => simp
  | some r => simp [Option.filter, h r hr]

/-- A decoded command is that of the row of the word's opcode, and the row covers the word. -/
theorem row_of_decode {w : Word} {i : Instr} (h : decode w = .ok i) :
    ∃ r, opcodeRows[(opcodeOf w).toNat]? = some r ∧ r.covers w = true ∧ i = r.command w := by
  unfold decode at h
  rw [find_row] at h
  cases hr : opcodeRows[(opcodeOf w).toNat]? with
  | none => simp [hr] at h
  | some r =>
    cases hc : r.covers w
    · simp [hr, Option.filter, hc] at h
    · exact ⟨r, rfl, hc, by simpa [hr, Option.filter, hc] using h.symm⟩

end Sys2Proof.Laws
end

