-- ==== Sys2Proof/Laws/Ops.lean ====
section
/-! SUPPORT. What the shared operations and one step of the machine can do, said once. -/

namespace Sys2Proof.Laws

open Sys2Proof.Machine

/-! ### Faulted and unfaulted blocks (R46) -/

@[simp] theorem unlessFaulted_of_live {s : State} {o : Host.Outcome State Fault Refusal} (h : s.block.fault = false) :
    unlessFaulted s o = o := by simp [unlessFaulted, h]

@[simp] theorem unlessFaulted_of_faulted {s : State} {o : Host.Outcome State Fault Refusal} (h : s.block.fault = true) :
    unlessFaulted s o = .fault .timerMisused := by simp [unlessFaulted, h]

theorem unlessFaulted_eq_next {s t : State} {o : Host.Outcome State Fault Refusal} :
    unlessFaulted s o = .next t ↔ s.block.fault = false ∧ o = .next t := by
  cases h : s.block.fault <;> simp [unlessFaulted, h]

theorem hostStep_eq_next {s t : State} {r : Reply} :
    hostStep s r = .next t ↔ s.block.fault = false ∧ t = s.answer r := by
  rw [hostStep, unlessFaulted_eq_next]
  constructor
  · rintro ⟨h, h'⟩
    exact ⟨h, by injection h' with h'; exact h'.symm⟩
  · rintro ⟨h, rfl⟩
    exact ⟨h, rfl⟩

/-! ### The commands: each is a reply computed from the block alone -/

/-- What each command comes to on a block (rules R110 to R207). -/
def replyOf : Instr → Block → Reply
  | .nop, b => done b
  | .initServo idx port pin rest pw, b => initServo Config.frameTicks idx port pin rest pw b
  | .initServos, b => initServos Config.frameTicks b
  | .disarm, b => disarm b
  | .gieWr v, b => gieWr v b
  | .rdReg r, b => rdReg Config.frameTicks r b
  | .rdCh i, b => rdCh i b
  | .rdEv s k, b => rdEv s k b
  | .rdPort p, b => rdPort p b
  | .gpioSet p m, b => gpioSet p m b
  | .gpioClr p m, b => gpioClr p m b
  | .gpioTgl p m, b => gpioTgl p m b
  | .extClaim, b => extClaim b
  | .extRelease, b => extRelease b

/-- Every command is a HOST step with the reply computed from the block. -/
theorem exec_eq (i : Instr) (s : State) : exec i s = hostStep s (replyOf i s.block) := by
  cases i <;> rfl

theorem exec_eq_next {i : Instr} {s t : State} :
    exec i s = .next t ↔ s.block.fault = false ∧ t = s.answer (replyOf i s.block) := by
  rw [exec_eq, hostStep_eq_next]

/-- On an unfaulted block every command ends in a next state. -/
theorem exec_live {s : State} (h : s.block.fault = false) (i : Instr) : exec i s = .next (s.answer (replyOf i s.block)) :=
  exec_eq_next.2 ⟨h, rfl⟩

/-! ### One step of the machine -/

/-- Everything a step that ends in a next state can be (R11): the HOST step of a command, the HOST step of an illegal word, a
TICK step, a SERVICE step, or the offer of a step that is not enabled. -/
theorem step_cases {s t : State} (h : step s = .next t) :
    s.block.fault = false ∧
      ((∃ w i, s.nextEvent = .host w ∧ decode w = .ok i ∧ t = s.dropEvent.answer (replyOf i s.block)) ∨
       (∃ w e, s.nextEvent = .host w ∧ decode w = .error e ∧ t = s.dropEvent.answer (failed s.block .errIllegal)) ∨
       (s.nextEvent = .tick ∧ t = s.dropEvent.silent (if s.block.run then tick s.block else s.block)) ∨
       (s.nextEvent = .service ∧ s.block.interruptEnabled = true ∧
          ∃ b, service Config.frameTicks s.block = some b ∧ t = s.dropEvent.silent b) ∨
       (s.nextEvent = .service ∧ s.block.interruptEnabled = false ∧ t = s.dropEvent.silent s.block)) := by
  unfold step at h
  cases he : s.nextEvent with
  | host w =>
    simp only [he, commandStep] at h
    cases hd : decode w with
    | ok i =>
      simp only [hd] at h
      have := exec_eq_next.1 h
      simp only [State.dropEvent_block] at this
      exact ⟨this.1, .inl ⟨w, i, rfl, hd, this.2⟩⟩
    | error e =>
      simp only [hd, illegalStep] at h
      have := hostStep_eq_next.1 h
      simp only [State.dropEvent_block] at this
      exact ⟨this.1, .inr (.inl ⟨w, e, rfl, hd, this.2⟩)⟩
  | tick =>
    simp only [he, tickStep, unlessFaulted_eq_next, State.dropEvent_block] at h
    obtain ⟨hf, ht⟩ := h
    injection ht with ht
    exact ⟨hf, .inr (.inr (.inl ⟨rfl, ht.symm⟩))⟩
  | service =>
    simp only [he, serviceStep, unlessFaulted_eq_next, State.dropEvent_block] at h
    obtain ⟨hf, ht⟩ := h
    cases hi : s.block.interruptEnabled
    · rw [hi] at ht
      simp only [Bool.false_eq_true, if_false] at ht
      injection ht with ht
      exact ⟨hf, .inr (.inr (.inr (.inr ⟨rfl, rfl, ht.symm⟩)))⟩
    · rw [hi] at ht
      simp only [if_true] at ht
      cases hs : service Config.frameTicks s.block with
      | none => simp [hs] at ht
      | some b =>
        simp only [hs] at ht
        injection ht with ht
        exact ⟨hf, .inr (.inr (.inr (.inl ⟨rfl, rfl, b, rfl, ht.symm⟩)))⟩

/-! ### The output ports -/

theorem getLsbD_pinMask (b : PinId) (j : Nat) : (pinMask b).getLsbD j = (decide (j < 8) && decide (j = b.toNat)) := by
  have hb := b.isLt
  by_cases hj : j < 8
  · by_cases h : j < b.toNat
    · have : j ≠ b.toNat := by omega
      simp [pinMask, h, this]
    · by_cases h' : j = b.toNat
      · simp [pinMask, h']
      · have : ¬ (j - b.toNat = 0) := by omega
        simp [pinMask, hj, h, h', this]
  · simp [pinMask, hj]

@[simp] theorem getElem_pinMask (b : PinId) (j : Nat) (h : j < 8) : (pinMask b)[j] = decide (j = b.toNat) := by
  rw [← BitVec.getLsbD_eq_getElem, getLsbD_pinMask]; simp only [h, decide_true, Bool.true_and]

/-- Ports whose pins all have the same levels are equal (R48). -/
theorem ports_ext {a b : Vector PortBits 4} (h : ∀ (p : PortId) (c : PinId), pinLevel a p c = pinLevel b p c) : a = b := by
  refine Vector.ext fun i hi => BitVec.eq_of_getLsbD_eq fun j hj => ?_
  have hp : (BitVec.ofNat 2 i).toNat = i := by simp only [BitVec.toNat_ofNat]; omega
  have hc : (BitVec.ofNat 3 j).toNat = j := by simp only [BitVec.toNat_ofNat]; omega
  have := h (BitVec.ofNat 2 i) (BitVec.ofNat 3 j)
  simpa only [pinLevel, hp, hc] using this

/-- `drive` assigns the level of one pin and no other (R152). -/
theorem pinLevel_drive (ports : Vector PortBits 4) (p q : PortId) (b c : PinId) (level : Level) :
    pinLevel (drive ports p b level) q c = if q = p ∧ c = b then level else pinLevel ports q c := by
  have hc := c.isLt
  by_cases hq : q = p
  · subst hq
    by_cases hcb : c = b
    · subst hcb
      cases level <;> simp [pinLevel, drive, hc]
    · have hne : c.toNat ≠ b.toNat := fun h => hcb (BitVec.eq_of_toNat_eq h)
      cases level <;> simp [pinLevel, drive, hc, hcb, hne]
  · have hne : p.toNat ≠ q.toNat := fun h => hq (BitVec.eq_of_toNat_eq h.symm)
    simp [pinLevel, drive, hq, Vector.getElem_set_ne _ _ hne]

end Sys2Proof.Laws
end

