-- ==== Sys2Proof/Laws/Commands.lean ====
section
/-! SUPPORT. Everything a host command can come to (rules R110 to R207), and the fields of its response word (R82). -/

namespace Sys2Proof.Laws

open Sys2Proof.Machine

/-! ### The response word (R82) -/

@[simp] theorem dataOf_responseWord (st : Status) (d : Data) : dataOf (responseWord st d) = d := by
  refine BitVec.eq_of_getLsbD_eq fun j hj => ?_
  have h28 : j < 28 := hj
  have h32' : j < 32 := by omega
  simp [dataOf, responseWord, h28, h32']

@[simp] theorem statusOf_responseWord (st : Status) (d : Data) : statusOf (responseWord st d) = st.code := by
  refine BitVec.eq_of_getLsbD_eq fun j hj => ?_
  have h4 : 28 + j < 32 := by omega
  simp [statusOf, responseWord, hj, h4]

theorem code_eq_zero_iff {st : Status} : st.code = 0 ↔ st = .ok := by cases st <;> decide

theorem code_le_seven (st : Status) : st.code.toNat ≤ 7 := by cases st <;> decide

/-- The value of a field put at bit 0 of a data field. -/
theorem toNat_place_zero {len : Nat} (h : len ≤ 28) (v : BitVec len) : (place 28 0 v).toNat = v.toNat := by
  have : v.toNat < 2 ^ 28 := lt_of_lt_of_le v.isLt (Nat.pow_le_pow_right (by decide) h)
  simpa [place] using this

/-! ### What each command that can write comes to -/

/-- INIT_SERVO (R110, R111): an error, a registry write while not armed, or a registry write with a rebuild while armed. -/
theorem initServo_cases (frame : Nat) (idx : BitVec 3) (port : PortId) (pin : PinId) (rest : Level) (pw : Tick) (b : Block) :
    (∃ st, st ≠ .ok ∧ initServo frame idx port pin rest pw b = failed b st) ∨
    ∃ h : idx.toNat < 6, ¬ sext16 pw ≤ 0 ∧ ¬ Collides b.ch ⟨idx.toNat, h⟩ port pin ∧
      ((b.town ≠ .servo ∧
          initServo frame idx port pin rest pw b = done (b.setChannel ⟨idx.toNat, h⟩ ⟨true, port, pin, rest, pw⟩)) ∨
        ∃ q n, b.town = .servo ∧ build frame (b.ch.set idx.toNat ⟨true, port, pin, rest, pw⟩ h) = .built q n ∧
          initServo frame idx port pin rest pw b =
            done ((b.setShadow q n).setChannel ⟨idx.toNat, h⟩ ⟨true, port, pin, rest, pw⟩)) := by
  by_cases h : idx.toNat < 6
  · by_cases hw : sext16 pw ≤ 0
    · exact .inl ⟨.errWidth, by decide, by rw [initServo, dif_pos h, if_pos hw]⟩
    · by_cases hc : Collides b.ch ⟨idx.toNat, h⟩ port pin
      · exact .inl ⟨.errCollision, by decide, by rw [initServo, dif_pos h, if_neg hw, if_pos hc]⟩
      · have hreg : initServo frame idx port pin rest pw b =
            register frame ⟨idx.toNat, h⟩ ⟨true, port, pin, rest, pw⟩ b := by
          rw [initServo, dif_pos h, if_neg hw, if_neg hc]
        by_cases ht : b.town = .servo
        · rw [register, if_pos ht] at hreg
          split at hreg
          · exact .inl ⟨.errSchedule, by decide, hreg⟩
          · next he => exact absurd he (build_ne_empty (i := ⟨idx.toNat, h⟩) (by simp))
          · next q n hb => exact .inr ⟨h, hw, hc, .inr ⟨q, n, ht, hb, hreg⟩⟩
        · rw [register, if_neg ht] at hreg
          exact .inr ⟨h, hw, hc, .inl ⟨ht, hreg⟩⟩
  · exact .inl ⟨.errIndex, by decide, by rw [initServo, dif_neg h]⟩

/-- INIT_SERVOS (R180 to R183): an error, no effect, the arming, or a rebuild into the shadow queue. -/
theorem initServos_cases (frame : Nat) (b : Block) :
    (∃ st, st ≠ .ok ∧ initServos frame b = failed b st) ∨
    (b.town ≠ .other ∧ build frame b.ch = .empty ∧ initServos frame b = done b) ∨
    (∃ q n, b.town = .free ∧ build frame b.ch = .built q n ∧ initServos frame b = done (b.arm q n)) ∨
    ∃ q n, b.town = .servo ∧ build frame b.ch = .built q n ∧ initServos frame b = done (b.setShadow q n) := by
  cases ht : b.town with
  | other => exact .inl ⟨.errResource, by decide, by simp only [initServos, ht]⟩
  | free =>
    cases hb : build frame b.ch with
    | empty => exact .inr (.inl ⟨by decide, rfl, by simp only [initServos, ht, hb]⟩)
    | reject => exact .inl ⟨.errSchedule, by decide, by simp only [initServos, ht, hb]⟩
    | built q n => exact .inr (.inr (.inl ⟨q, n, rfl, rfl, by simp only [initServos, ht, hb]⟩))
  | servo =>
    cases hb : build frame b.ch with
    | empty => exact .inr (.inl ⟨by decide, rfl, by simp only [initServos, ht, hb]⟩)
    | reject => exact .inl ⟨.errSchedule, by decide, by simp only [initServos, ht, hb]⟩
    | built q n => exact .inr (.inr (.inr ⟨q, n, rfl, rfl, by simp only [initServos, ht, hb]⟩))

/-- What a host command can do: leave the block alone (with an error, or as a read or a no-op), or write as its rule says. Read
from top to bottom: R26 and R110, R180, R184, R186, R201 to R203, R206, R207. -/
theorem replyOf_cases (i : Instr) (b : Block) :
    (∃ st, st ≠ .ok ∧ replyOf i b = failed b st) ∨
    (∃ d, replyOf i b = readOut b d) ∨
    (∃ j c, ∃ idx port pin rest pw, i = .initServo idx port pin rest pw ∧ b.town ≠ .servo ∧ c.valid = true ∧
      replyOf i b = done (b.setChannel j c)) ∨
    (∃ j c q n, ∃ idx port pin rest pw, i = .initServo idx port pin rest pw ∧ b.town = .servo ∧ c.valid = true ∧
      replyOf i b = done ((b.setShadow q n).setChannel j c)) ∨
    (∃ q n, i = .initServos ∧ b.town = .free ∧ build Config.frameTicks b.ch = .built q n ∧ replyOf i b = done (b.arm q n)) ∨
    (∃ q n, i = .initServos ∧ b.town = .servo ∧ build Config.frameTicks b.ch = .built q n ∧
      replyOf i b = done (b.setShadow q n)) ∨
    (i = .disarm ∧ b.town = .servo ∧ replyOf i b = done b.disarm) ∨
    (∃ v, i = .gieWr v ∧ replyOf i b = done { b with gie := v }) ∨
    (∃ p m v, (i = .gpioSet p m ∨ i = .gpioClr p m ∨ i = .gpioTgl p m) ∧ replyOf i b = done (b.setPort p v)) ∨
    (i = .extClaim ∧ b.town = .free ∧ replyOf i b = done { b with town := .other }) ∨
    (i = .extClaim ∧ b.town = .servo ∧ replyOf i b = failed { b with fault := true } .errResource) ∨
    (i = .extRelease ∧ b.town = .other ∧ replyOf i b = done { b with town := .free }) := by
  cases i with
  | nop => exact .inr (.inl ⟨0, rfl⟩)
  | initServo idx port pin rest pw =>
    rcases initServo_cases Config.frameTicks idx port pin rest pw b with h | ⟨h, -, -, ⟨ht, hr⟩ | ⟨q, n, ht, -, hr⟩⟩
    · exact .inl h
    · exact .inr (.inr (.inl ⟨_, _, idx, port, pin, rest, pw, rfl, ht, rfl, hr⟩))
    · exact .inr (.inr (.inr (.inl ⟨_, _, q, n, idx, port, pin, rest, pw, rfl, ht, rfl, hr⟩)))
  | initServos =>
    rcases initServos_cases Config.frameTicks b with h | ⟨-, -, hr⟩ | ⟨q, n, ht, hb, hr⟩ | ⟨q, n, ht, hb, hr⟩
    · exact .inl h
    · exact .inr (.inl ⟨0, hr⟩)
    · exact .inr (.inr (.inr (.inr (.inl ⟨q, n, rfl, ht, hb, hr⟩))))
    · exact .inr (.inr (.inr (.inr (.inr (.inl ⟨q, n, rfl, ht, hb, hr⟩)))))
  | disarm =>
    by_cases ht : b.town = .servo
    · exact .inr (.inr (.inr (.inr (.inr (.inr (.inl ⟨rfl, ht, by simp only [replyOf, Machine.disarm, if_pos ht]⟩))))))
    · exact .inr (.inl ⟨0, by simp only [replyOf, Machine.disarm, if_neg ht]; rfl⟩)
  | gieWr v => exact .inr (.inr (.inr (.inr (.inr (.inr (.inr (.inl ⟨v, rfl, rfl⟩)))))))
  | rdReg r =>
    simp only [replyOf, rdReg]
    split
    · exact .inr (.inl ⟨_, rfl⟩)
    · exact .inl ⟨.errRange, by decide, rfl⟩
  | rdCh i =>
    simp only [replyOf, rdCh]
    split
    · exact .inr (.inl ⟨_, rfl⟩)
    · exact .inl ⟨.errRange, by decide, rfl⟩
  | rdEv sel k =>
    simp only [replyOf, rdEv]
    split
    · exact .inr (.inl ⟨_, rfl⟩)
    · exact .inl ⟨.errRange, by decide, rfl⟩
  | rdPort p => exact .inr (.inl ⟨_, rfl⟩)
  | gpioSet p m =>
    exact .inr (.inr (.inr (.inr (.inr (.inr (.inr (.inr (.inl ⟨p, m, _, .inl rfl, rfl⟩))))))))
  | gpioClr p m =>
    exact .inr (.inr (.inr (.inr (.inr (.inr (.inr (.inr (.inl ⟨p, m, _, .inr (.inl rfl), rfl⟩))))))))
  | gpioTgl p m =>
    exact .inr (.inr (.inr (.inr (.inr (.inr (.inr (.inr (.inl ⟨p, m, _, .inr (.inr rfl), rfl⟩))))))))
  | extClaim =>
    cases ht : b.town
    · exact .inr (.inr (.inr (.inr (.inr (.inr (.inr (.inr (.inr (.inl
        ⟨rfl, rfl, by simp only [replyOf, Machine.extClaim, ht]⟩)))))))))
    · exact .inr (.inr (.inr (.inr (.inr (.inr (.inr (.inr (.inr (.inr (.inl
        ⟨rfl, rfl, by simp only [replyOf, Machine.extClaim, ht]⟩))))))))))
    · exact .inr (.inl ⟨0, by simp only [replyOf, Machine.extClaim, ht]; rfl⟩)
  | extRelease =>
    cases ht : b.town
    · exact .inr (.inl ⟨0, by simp only [replyOf, Machine.extRelease, ht]; rfl⟩)
    · exact .inr (.inl ⟨0, by simp only [replyOf, Machine.extRelease, ht]; rfl⟩)
    · exact .inr (.inr (.inr (.inr (.inr (.inr (.inr (.inr (.inr (.inr (.inr
        ⟨rfl, rfl, by simp only [replyOf, Machine.extRelease, ht]⟩))))))))))

/-! ### The levels of a written port (R201 to R203) -/

/-- Writing one latch changes the levels of that port's pins only. -/
theorem pinLevel_setPort (b : Block) (p q : PortId) (v : PortBits) (c : PinId) :
    pinLevel (b.setPort p v).ports q c = if q = p then v.getLsbD c.toNat else pinLevel b.ports q c := by
  by_cases hq : q = p
  · subst hq; simp [pinLevel, Block.setPort]
  · have hne : p.toNat ≠ q.toNat := fun h => hq (BitVec.eq_of_toNat_eq h.symm)
    simp [pinLevel, Block.setPort, hq, Vector.getElem_set_ne _ _ hne]

end Sys2Proof.Laws
end

