-- ==== Sys2Proof/Laws/PerInstr.lean ====
section
/-! SUPPORT. Facts about every command as syntax, one lemma per constructor of `Instr`. -/

/-- The word of a command carries the opcode of the command's own row of R84 and is covered by that row. -/
def Sys2Proof.Laws.Encoding.Statement (i : Sys2Proof.Instr) : Prop :=
  ∃ r, Sys2Proof.opcodeRows[(Sys2Proof.opcodeOf (Sys2Proof.encode i)).toNat]? = some r ∧
    r.covers (Sys2Proof.encode i) = true

namespace Sys2Proof.Laws.Encoding

/-- From the opcode of an encoded command and its row to the family's statement. -/
theorem of_row {i : Instr} (k : BitVec 4) {r : OpcodeRow} (hop : opcodeOf (encode i) = k)
    (hr : opcodeRows[k.toNat]? = some r) (hc : encode i &&& r.mask = r.matchBits) : Statement i :=
  ⟨r, by rw [hop]; exact hr, by simp [OpcodeRow.covers, hc]⟩

/-- Bit by bit equality of the opcode. -/
theorem opcode_ext {w : Word} {k : BitVec 4} (h : ∀ j, j < 4 → w.getLsbD (28 + j) = k.getLsbD j) : opcodeOf w = k :=
  BitVec.eq_of_getLsbD_eq fun j hj => by
    rw [← h j hj]
    simp [opcodeOf, hj]

theorem nop : Statement .nop := of_row 0 (by decide) rfl (by decide)

theorem initServo (idx : BitVec 3) (port : PortId) (pin : PinId) (rest : Level) (pw : Tick) :
    Statement (.initServo idx port pin rest pw) := by
  refine of_row 1 (opcode_ext fun j hj => ?_) rfl (BitVec.eq_of_getLsbD_eq fun j hj => ?_) <;>
    interval_cases j <;> simp [encode, placeOp]

theorem initServos : Statement .initServos := of_row 2 (by decide) rfl (by decide)

theorem disarm : Statement .disarm := of_row 3 (by decide) rfl (by decide)

theorem gieWr (v : Bool) :
    Statement (.gieWr v) := by
  refine of_row 4 (opcode_ext fun j hj => ?_) rfl (BitVec.eq_of_getLsbD_eq fun j hj => ?_) <;>
    interval_cases j <;> simp [encode, placeOp]

theorem rdReg (r : BitVec 4) :
    Statement (.rdReg r) := by
  refine of_row 5 (opcode_ext fun j hj => ?_) rfl (BitVec.eq_of_getLsbD_eq fun j hj => ?_) <;>
    interval_cases j <;> simp [encode, placeOp]

theorem rdCh (i : BitVec 3) :
    Statement (.rdCh i) := by
  refine of_row 6 (opcode_ext fun j hj => ?_) rfl (BitVec.eq_of_getLsbD_eq fun j hj => ?_) <;>
    interval_cases j <;> simp [encode, placeOp]

theorem rdEv (s : Bool) (k : BitVec 3) :
    Statement (.rdEv s k) := by
  refine of_row 7 (opcode_ext fun j hj => ?_) rfl (BitVec.eq_of_getLsbD_eq fun j hj => ?_) <;>
    interval_cases j <;> simp [encode, placeOp]

theorem rdPort (p : PortId) :
    Statement (.rdPort p) := by
  refine of_row 8 (opcode_ext fun j hj => ?_) rfl (BitVec.eq_of_getLsbD_eq fun j hj => ?_) <;>
    interval_cases j <;> simp [encode, placeOp]

theorem gpioSet (p : PortId) (m : PortBits) :
    Statement (.gpioSet p m) := by
  refine of_row 9 (opcode_ext fun j hj => ?_) rfl (BitVec.eq_of_getLsbD_eq fun j hj => ?_) <;>
    interval_cases j <;> simp [encode, placeOp]

theorem gpioClr (p : PortId) (m : PortBits) :
    Statement (.gpioClr p m) := by
  refine of_row 10 (opcode_ext fun j hj => ?_) rfl (BitVec.eq_of_getLsbD_eq fun j hj => ?_) <;>
    interval_cases j <;> simp [encode, placeOp]

theorem gpioTgl (p : PortId) (m : PortBits) :
    Statement (.gpioTgl p m) := by
  refine of_row 11 (opcode_ext fun j hj => ?_) rfl (BitVec.eq_of_getLsbD_eq fun j hj => ?_) <;>
    interval_cases j <;> simp [encode, placeOp]

theorem extClaim : Statement .extClaim := of_row 12 (by decide) rfl (by decide)

theorem extRelease : Statement .extRelease := of_row 13 (by decide) rfl (by decide)

end Sys2Proof.Laws.Encoding
end

