-- ==== Sys2Proof/Laws/Service.lean ====
section
/-! SUPPORT. What a SERVICE step can do (R155): the loop's invariant and its end, the frame of the step, and the state of the
sequencer during it. -/

namespace Sys2Proof.Laws

open Sys2Proof.Machine

/-! ### Entries of a queue -/

theorem getElem?_eq_entryAt {q : Vector Entry 7} {k : Nat} (h : k < 7) : q[k]? = some (entryAt q k) := by
  simp [entryAt, h]

theorem entryAt_of_getElem? {q : Vector Entry 7} {k : Nat} {e : Entry} (h : q[k]? = some e) : entryAt q k = e := by
  simp [entryAt, h]

theorem isDue_iff {now : Int} {e : Entry} : isDue now e = true ↔ (e.tick.toNat : Int) ≤ now := by simp [isDue]

theorem isDue_eq_false_iff {now : Int} {e : Entry} : isDue now e = false ↔ now < (e.tick.toNat : Int) := by simp [isDue]

/-! ### The loop (R155) -/

/-- A property that executing a due entry keeps holds when the loop ends, and then the awaited entry is not due. -/
theorem serviceLoop_invariant {frame : Nat} {P : Sweep → Prop}
    (hP : ∀ w e, P w → w.block.evq[w.block.evi.toNat]? = some e → isDue w.now e = true → P (applyDue frame e w)) :
    ∀ n w w', P w → serviceLoop frame n w = some w' →
      P w' ∧ ∃ e, w'.block.evq[w'.block.evi.toNat]? = some e ∧ isDue w'.now e = false
  | 0, _, _, _, h => by simp [serviceLoop] at h
  | n + 1, w, w', hw, h => by
    unfold serviceLoop at h
    cases he : w.block.evq[w.block.evi.toNat]? with
    | none => simp [he] at h
    | some e =>
      simp only [he] at h
      cases hd : isDue w.now e
      · simp only [hd, Bool.false_eq_true, if_false, Option.some.injEq] at h
        subst h
        exact ⟨hw, e, he, hd⟩
      · simp only [hd, if_true] at h
        exact serviceLoop_invariant hP n _ w' (hP w e hw he hd) h

/-- What each pass of the loop lowers: eight times the frame tick still to account for, and the entries before the end. -/
def passesLeft (w : Sweep) : Nat := if w.now < 0 then 0 else w.now.toNat * 8 + (8 - w.block.evi.toNat)

theorem evi_applyRest {e : Entry} {w : Sweep} (h : w.block.evi.toNat < 7) :
    (applyRest e w).block.evi.toNat = w.block.evi.toNat + 1 := by
  simp only [applyRest, BitVec.toNat_add]
  simp
  omega

@[simp] theorem evi_applyWrap (frame : Nat) (w : Sweep) : (applyWrap frame w).block.evi = 0 := by
  simp [applyWrap]

/-- A pass lowers `passesLeft`. -/
theorem passesLeft_applyDue {frame : Nat} {e : Entry} {w : Sweep} (hframe : 1 ≤ frame) (hevi : w.block.evi.toNat < 7)
    (hdue : isDue w.now e = true) : passesLeft (applyDue frame e w) < passesLeft w := by
  rw [isDue_iff] at hdue
  have hnow : ¬ w.now < 0 := by omega
  unfold applyDue
  cases e.wrap
  · have h := evi_applyRest (e := e) (w := { w with missed := w.missed || isMissed w.arm e }) hevi
    have hn : (applyRest e { w with missed := w.missed || isMissed w.arm e }).now = w.now := rfl
    simp only [Bool.false_eq_true, if_false, passesLeft, hn, h, hnow]
    omega
  · have hn : (applyWrap frame { w with missed := w.missed || isMissed w.arm e }).now = w.now - frame := rfl
    simp only [if_true, passesLeft, hn, evi_applyWrap, hnow, if_false]
    split <;> simp <;> omega

/-- While EVI stays on the queue the loop ends with its bound unused (R155: "The loop ends"). -/
theorem serviceLoop_completes {frame : Nat} {P : Sweep → Prop} (hframe : 1 ≤ frame)
    (hP : ∀ w e, P w → w.block.evq[w.block.evi.toNat]? = some e → isDue w.now e = true → P (applyDue frame e w))
    (hevi : ∀ w, P w → w.block.evi.toNat < 7) :
    ∀ n w, P w → passesLeft w < n → ∃ w', serviceLoop frame n w = some w'
  | 0, _, _, hn => by omega
  | n + 1, w, hw, hn => by
    unfold serviceLoop
    have he := getElem?_eq_entryAt (q := w.block.evq) (hevi w hw)
    rw [he]
    cases hd : isDue w.now (entryAt w.block.evq w.block.evi.toNat)
    · exact ⟨w, by simp [hd]⟩
    · simp only [hd, if_true]
      have := passesLeft_applyDue (e := entryAt w.block.evq w.block.evi.toNat) hframe (hevi w hw) hd
      exact serviceLoop_completes hframe hP hevi n _ (hP w _ hw he hd) (by omega)

/-- The bound of `service` is enough for its start. -/
theorem passesLeft_startService (b : Block) : passesLeft (startService b) < passBound b.now := by
  have : (startService b).now = (b.now.toNat : Int) := rfl
  unfold passesLeft passBound
  rw [this]
  split <;> omega

theorem service_eq_some {frame : Nat} {b b' : Block} (h : service frame b = some b') :
    ∃ w, serviceLoop frame (passBound b.now) (startService b) = some w ∧ b' = finishService w := by
  unfold service at h
  cases hl : serviceLoop frame (passBound b.now) (startService b) with
  | none => simp [hl] at h
  | some w => exact ⟨w, rfl, by simpa [hl] using h.symm⟩

/-! ### What the step never writes (R155) -/

/-- The elements no pass of the loop writes. -/
structure SameFixed (b b' : Block) : Prop where
  ch    : b'.ch = b.ch
  shq   : b'.shq = b.shq
  shn   : b'.shn = b.shn
  cnt   : b'.cnt = b.cnt
  run   : b'.run = b.run
  ocie  : b'.ocie = b.ocie
  gie   : b'.gie = b.gie
  town  : b'.town = b.town
  fault : b'.fault = b.fault
  ovr   : b'.ovr = b.ovr

theorem SameFixed.trans {a b c : Block} (h : SameFixed a b) (h' : SameFixed b c) : SameFixed a c := by
  obtain ⟨h1, h2, h3, h4, h5, h6, h7, h8, h9, h10⟩ := h
  obtain ⟨g1, g2, g3, g4, g5, g6, g7, g8, g9, g10⟩ := h'
  constructor <;> simp_all

theorem sameFixed_applyDue (frame : Nat) (e : Entry) (w : Sweep) : SameFixed w.block (applyDue frame e w).block := by
  unfold applyDue
  cases e.wrap <;> constructor <;> simp [applyRest, applyWrap]

theorem sameFixed_startService (b : Block) : SameFixed b (startService b).block := by
  constructor <;> simp [startService]

/-- A SERVICE step leaves the registry, the shadow queue, the counter, the enables, the owner and FAULT alone, clears OCF, and
raises OVR by at most one (R155, R158). -/
theorem service_frame {frame : Nat} {b b' : Block} (h : service frame b = some b') :
    b'.ch = b.ch ∧ b'.shq = b.shq ∧ b'.shn = b.shn ∧ b'.cnt = b.cnt ∧ b'.run = b.run ∧ b'.ocie = b.ocie ∧ b'.gie = b.gie ∧
      b'.town = b.town ∧ b'.fault = b.fault ∧ b'.ocf = false ∧ ∃ m, b'.ovr = ovrAfter b.ovr m := by
  obtain ⟨w, hw, rfl⟩ := service_eq_some h
  have hinv := serviceLoop_invariant (frame := frame)
    (P := fun w => SameFixed b w.block ∧ w.block.ocf = false)
    (fun w e hP _ _ => ⟨hP.1.trans (sameFixed_applyDue frame e w), by
      unfold applyDue
      cases e.wrap <;> simp [applyRest, applyWrap, hP.2]⟩) _ _ _ ⟨sameFixed_startService b, by simp [startService]⟩ hw
  obtain ⟨⟨⟨h1, h2, h3, h4, h5, h6, h7, h8, h9, h10⟩, hocf⟩, -⟩ := hinv
  exact ⟨h1, h2, h3, h4, h5, h6, h7, h8, h9, hocf, w.missed, by simp [h10]⟩

/-! ### The sequencer during a SERVICE step -/

/-- What holds of a sweep of an armed, sound block (R30, R34, R47): queues in shape, EVI on the queue, PHASE past the initial
drive, and `now` the frame tick of the counter. -/
structure SweepOk (frame : Nat) (w : Sweep) : Prop where
  queue  : QueueOk frame w.block.evq w.block.evn.toNat
  shadow : w.block.pend = true → QueueOk frame w.block.shq w.block.shn.toNat
  evi_le : w.block.evi.toNat ≤ w.block.evn.toNat - 1
  phase  : w.block.phase = .scheduled
  now_eq : (w.block.now.toNat : Int) = w.now

theorem SweepOk.evi_lt {frame : Nat} {w : Sweep} (h : SweepOk frame w) : w.block.evi.toNat < 7 := by
  have := h.evi_le
  have := h.queue.le_seven
  have := h.queue.two_le
  omega

/-- In a sound queue the marker is the last meaningful entry and no other. -/
theorem QueueOk_wrap_iff {frame : Nat} {q : Vector Entry 7} {n k : Nat} (h : QueueOk frame q n) (hk : k ≤ n - 1) :
    (entryAt q k).wrap = true ↔ k = n - 1 := by
  constructor
  · intro hw
    by_contra hne
    rw [h.rest_wrap k (by omega)] at hw
    exact Bool.noConfusion hw
  · rintro rfl
    exact h.marker_wrap

/-- The frame tick after the base has moved on by FRAME (R157). -/
theorem now_after_wrap {cnt fbase : Tick} {frame : Nat} (h : frame ≤ (cnt - fbase).toNat) :
    (cnt - (fbase + tick16 frame)).toNat = (cnt - fbase).toNat - frame := by
  have := cnt.isLt
  have := fbase.isLt
  simp only [tick16, BitVec.toNat_sub, BitVec.toNat_add, BitVec.toNat_ofNat] at *
  omega

theorem sweepOk_applyDue {frame : Nat} {w : Sweep} {e : Entry} (h : SweepOk frame w)
    (he : w.block.evq[w.block.evi.toNat]? = some e) (hd : isDue w.now e = true) : SweepOk frame (applyDue frame e w) := by
  have hee := entryAt_of_getElem? he
  have hwrap := QueueOk_wrap_iff h.queue h.evi_le
  rw [hee] at hwrap
  rw [isDue_iff] at hd
  unfold applyDue
  cases hw : e.wrap
  · have hlt : w.block.evi.toNat < w.block.evn.toNat - 1 := by
      have := h.evi_le
      have : w.block.evi.toNat ≠ w.block.evn.toNat - 1 := fun hc => by
        have := hwrap.2 hc
        simp [hw] at this
      omega
    refine ⟨h.queue, h.shadow, ?_, h.phase, h.now_eq⟩
    have := evi_applyRest (e := e) (w := { w with missed := w.missed || isMissed w.arm e }) h.evi_lt
    simp only [Bool.false_eq_true, if_false, this]
    simpa [applyRest] using hlt
  · have hmark := hwrap.1 hw
    have htick : e.tick.toNat = frame := by
      have := h.queue.marker_tick
      rw [← hmark, hee] at this
      exact this
    have hnow := h.now_eq
    refine ⟨?_, ?_, ?_, by simp [applyWrap], ?_⟩
    · cases hp : w.block.pend
      · simpa [applyWrap, hp] using h.queue
      · simpa [applyWrap, hp] using h.shadow hp
    · simp [applyWrap]
    · simp
    · have hle : frame ≤ (w.block.cnt - w.block.fbase).toNat := by
        have : (w.block.cnt - w.block.fbase).toNat = w.block.now.toNat := rfl
        omega
      simp only [applyWrap, if_true, Block.now, enterFrame_cnt, enterFrame_fbase, Block.commit_cnt, Block.commit_fbase,
        now_after_wrap hle]
      have : (w.block.cnt - w.block.fbase).toNat = w.block.now.toNat := rfl
      omega

theorem sweepOk_startService {frame : Nat} {b : Block} (h : BlockOk frame b) (hrun : b.run = true) :
    SweepOk frame (startService b) := by
  have hevn := h.run_evn hrun
  refine ⟨?_, ?_, ?_, by simp [startService], ?_⟩
  · simpa [startService] using h.active (by omega)
  · intro hp
    have hp' : b.pend = true := by simpa [startService] using hp
    have := h.pend_shn hp'
    simpa [startService] using h.shadow (by omega)
  · simpa [startService] using h.run_evi hrun
  · simp [startService, Block.now]

/-- The loop of a SERVICE step of an armed, sound block ends, in a sound sweep whose awaited entry lies in the future. -/
theorem serviceLoop_sound {frame : Nat} (hframe : 1 ≤ frame) {b : Block} (h : BlockOk frame b) (hrun : b.run = true) :
    ∃ w, serviceLoop frame (passBound b.now) (startService b) = some w ∧ SweepOk frame w ∧
      w.now < ((entryAt w.block.evq w.block.evi.toNat).tick.toNat : Int) := by
  obtain ⟨w, hw⟩ := serviceLoop_completes (P := SweepOk frame) hframe (fun w e hP he hd => sweepOk_applyDue hP he hd)
    (fun w hP => hP.evi_lt) _ _ (sweepOk_startService h hrun) (passesLeft_startService b)
  obtain ⟨hP, e, he, hd⟩ := serviceLoop_invariant (P := SweepOk frame) (fun w e hP he hd => sweepOk_applyDue hP he hd) _ _ _
    (sweepOk_startService h hrun) hw
  rw [isDue_eq_false_iff, ← entryAt_of_getElem? he] at hd
  exact ⟨w, hw, hP, hd⟩

/-! ### The pins (R152, R153) -/

theorem pinLevel_foldl_drive_other (f : Entry → Level) (p : PortId) (c : PinId) : ∀ (l : List Entry) (ports : Vector PortBits 4),
    (∀ e ∈ l, ¬(e.port = p ∧ e.pin = c)) →
      pinLevel (l.foldl (fun ports e => drive ports e.port e.pin (f e)) ports) p c = pinLevel ports p c
  | [], _, _ => rfl
  | e :: l, ports, h => by
    rw [List.foldl_cons, pinLevel_foldl_drive_other f p c l _ fun e' he' => h e' (List.mem_cons_of_mem _ he'),
      pinLevel_drive, if_neg]
    rintro ⟨rfl, rfl⟩
    exact h e List.mem_cons_self ⟨rfl, rfl⟩

theorem pinLevel_foldl_drive_mem (f : Entry → Level) : ∀ (l : List Entry) (ports : Vector PortBits 4),
    l.Pairwise (fun e e' => ¬(e.port = e'.port ∧ e.pin = e'.pin)) → ∀ e ∈ l,
      pinLevel (l.foldl (fun ports e => drive ports e.port e.pin (f e)) ports) e.port e.pin = f e
  | [], _, _, e, he => by simp at he
  | a :: l, ports, hl, e, he => by
    rw [List.pairwise_cons] at hl
    rw [List.foldl_cons]
    rcases List.mem_cons.1 he with rfl | he
    · rw [pinLevel_foldl_drive_other f _ _ l _ fun e' he' hc => hl.1 e' he' ⟨hc.1.symm, hc.2.symm⟩, pinLevel_drive]
      simp
    · exact pinLevel_foldl_drive_mem f l _ hl.2 e he

/-- The entries do_active walks over, by their index (R153). -/
theorem scheduled_eq_map {b : Block} : b.scheduled = (List.range (b.evn.toNat - 1)).map (entryAt b.evq) := by
  have hn := b.evn.isLt
  apply List.ext_getElem?
  intro k
  by_cases hk : k < b.evn.toNat - 1
  · have h7 : k < 7 := by omega
    simp [Block.scheduled, hk, entryAt, h7]
  · simp [Block.scheduled, hk]

theorem mem_scheduled {b : Block} {e : Entry} : e ∈ b.scheduled ↔ ∃ k, k < b.evn.toNat - 1 ∧ entryAt b.evq k = e := by
  rw [scheduled_eq_map]
  simp

/-- do_active writes no pin the active queue does not name (R153). -/
theorem pinLevel_doActive_other {b : Block} {p : PortId} {c : PinId} (h : ¬ b.Drives p c) :
    pinLevel (doActive b).ports p c = pinLevel b.ports p c := by
  rw [doActive_ports]
  refine pinLevel_foldl_drive_other _ _ _ _ _ fun e he hc => ?_
  obtain ⟨k, hk, rfl⟩ := mem_scheduled.1 he
  exact h ⟨k, hk, hc.1, hc.2⟩

/-- do_active puts every pin of a sound active queue at the complement of its rest level (R153). -/
theorem pinLevel_doActive_entry {frame : Nat} {b : Block} (h : QueueOk frame b.evq b.evn.toNat) {k : Nat}
    (hk : k < b.evn.toNat - 1) :
    pinLevel (doActive b).ports (entryAt b.evq k).port (entryAt b.evq k).pin = !(entryAt b.evq k).level := by
  rw [doActive_ports]
  refine pinLevel_foldl_drive_mem (fun e => !e.level) b.scheduled b.ports ?_ _ (mem_scheduled.2 ⟨k, hk, rfl⟩)
  rw [scheduled_eq_map, List.pairwise_map]
  refine List.Pairwise.imp_of_mem ?_ List.pairwise_lt_range
  intro i j hi hj hij
  exact h.pins_apart i j hij (List.mem_range.1 hj)

/-! ### From the loop to the step -/

/-- SERVICE is enabled only while armed (R47, R154). -/
theorem run_of_enabled {frame : Nat} {b : Block} (h : BlockOk frame b) (he : b.interruptEnabled = true) : b.run = true :=
  h.ocf_run (by
    simp only [Block.interruptEnabled, Bool.and_eq_true] at he
    exact he.1.1)

theorem service_of_loop {frame : Nat} {b : Block} {w : Sweep}
    (h : serviceLoop frame (passBound b.now) (startService b) = some w) : service frame b = some (finishService w) := by
  simp [service, h]

/-- An enabled SERVICE step is the block operation, with the offer used up and no response. -/
theorem step_service {s : State} {b : Block} (hl : s.Live) (hs : s.nextEvent = .service)
    (he : s.block.interruptEnabled = true) (hb : service Config.frameTicks s.block = some b) :
    step s = .next (s.dropEvent.silent b) := by
  have hf : s.block.fault = false := hl
  simp [step, hs, serviceStep, hf, he, hb]

/-- The awaited entry's tick is at most FRAME (R30, R34). -/
theorem awaited_le_frame {frame : Nat} {b : Block} (h : BlockOk frame b) (hrun : b.run = true) :
    b.awaited.tick.toNat ≤ frame := by
  have hq := h.active (by have := h.run_evn hrun; omega)
  have hi := h.run_evi hrun
  rcases Nat.lt_or_ge b.evi.toNat (b.evn.toNat - 1) with hlt | hge
  · exact le_of_lt (hq.tick_below _ hlt)
  · have heq : b.evi.toNat = b.evn.toNat - 1 := by omega
    rw [Block.awaited, heq]
    exact le_of_eq hq.marker_tick

/-! ### Running through due entries -/

/-- The sweep after executing the `m` entries from EVI on, none of them a marker (R155, R156). -/
def afterRest (m : Nat) (w : Sweep) : Sweep :=
  let executed := (List.range' w.block.evi.toNat m).map (entryAt w.block.evq)
  { w with
    block := { w.block with
      ports := executed.foldl (fun ports e => drive ports e.port e.pin e.level) w.block.ports
      evi := BitVec.ofNat 3 (w.block.evi.toNat + m) }
    missed := w.missed || executed.any (isMissed w.arm) }

/-- The loop runs through `m` due entries that are no markers in `m` passes (R156). -/
theorem serviceLoop_rest {frame : Nat} : ∀ (m n : Nat) (w : Sweep), w.block.evi.toNat + m < 7 →
    (∀ k, w.block.evi.toNat ≤ k → k < w.block.evi.toNat + m →
      (entryAt w.block.evq k).wrap = false ∧ isDue w.now (entryAt w.block.evq k) = true) →
    serviceLoop frame (n + m) w = serviceLoop frame n (afterRest m w)
  | 0, n, w, _, _ => by simp [afterRest]
  | m + 1, n, w, hlt, h => by
    have he := getElem?_eq_entryAt (q := w.block.evq) (k := w.block.evi.toNat) (by omega)
    obtain ⟨hw, hd⟩ := h w.block.evi.toNat le_rfl (by omega)
    generalize hu : applyRest (entryAt w.block.evq w.block.evi.toNat)
      { w with missed := w.missed || isMissed w.arm (entryAt w.block.evq w.block.evi.toNat) } = u
    have hevi : u.block.evi.toNat = w.block.evi.toNat + 1 := by rw [← hu]; exact evi_applyRest (by simp only; omega)
    have hevq : u.block.evq = w.block.evq := by rw [← hu]; rfl
    have hnow : u.now = w.now := by rw [← hu]; rfl
    rw [← Nat.add_assoc, serviceLoop, he]
    simp only [hd, if_true, applyDue, hw, Bool.false_eq_true, if_false, hu]
    rw [serviceLoop_rest m n u (by omega) (by
      intro k hk hk'
      rw [hevq, hnow]
      exact h k (by omega) (by omega))]
    congr 1
    unfold afterRest
    rw [hevi, hevq, ← hu]
    simp only [applyRest, List.range'_succ, List.map_cons, List.foldl_cons, List.any_cons, Bool.or_assoc]
    congr 3
    omega

/-- More passes than the loop needs change nothing. -/
theorem serviceLoop_mono {frame : Nat} : ∀ {n : Nat} {w w' : Sweep} (m : Nat), serviceLoop frame n w = some w' →
    serviceLoop frame (n + m) w = some w'
  | 0, _, _, _, h => by simp [serviceLoop] at h
  | n + 1, w, w', m, h => by
    rw [Nat.add_right_comm, serviceLoop]
    rw [serviceLoop] at h
    cases he : w.block.evq[w.block.evi.toNat]? with
    | none => simp [he] at h
    | some e =>
      simp only [he] at h ⊢
      split
      · next hd =>
        rw [if_pos hd] at h
        exact serviceLoop_mono m h
      · next hd =>
        rw [if_neg hd] at h
        exact h

/-- The loop ends in one sweep, whatever bound on its passes it ends within. -/
theorem serviceLoop_unique {frame n m : Nat} {w a b : Sweep} (ha : serviceLoop frame n w = some a)
    (hb : serviceLoop frame m w = some b) : a = b := by
  have h := serviceLoop_mono m ha
  rw [Nat.add_comm, serviceLoop_mono n hb] at h
  exact (Option.some.inj h).symm

/-- The loop ends where the awaited entry is not due (R155: "next event lies in the future"). -/
theorem serviceLoop_end {frame : Nat} {w : Sweep} (n : Nat) (hevi : w.block.evi.toNat < 7)
    (hd : w.now < ((entryAt w.block.evq w.block.evi.toNat).tick.toNat : Int)) : serviceLoop frame (n + 1) w = some w := by
  rw [serviceLoop, getElem?_eq_entryAt hevi]
  simp only [isDue_eq_false_iff.2 hd, Bool.false_eq_true, if_false]

/-- A pass of the loop executes the awaited entry when it is due (R155). -/
theorem serviceLoop_due {frame : Nat} {w : Sweep} (n : Nat) (hevi : w.block.evi.toNat < 7)
    (hd : ((entryAt w.block.evq w.block.evi.toNat).tick.toNat : Int) ≤ w.now) :
    serviceLoop frame (n + 1) w = serviceLoop frame n (applyDue frame (entryAt w.block.evq w.block.evi.toNat) w) := by
  rw [serviceLoop, getElem?_eq_entryAt hevi]
  simp only [isDue_iff.2 hd, if_true]

/-- The block at the start of the loop (R155): the request cleared, and the initial drive done if it was due. -/
theorem startService_block (b : Block) :
    (startService b).block =
      { b with ocf := false, phase := .scheduled, ports := if b.phase = .active then (doActive b).ports else b.ports } := by
  cases h : b.phase
  · simp [startService, enterFrame, Block.takeInterrupt, h, doActive, Block.scheduled]
  · simp [startService, enterFrame, Block.takeInterrupt, h]

end Sys2Proof.Laws
end

