-- ==== Sys2Proof/Tests/Slice0.lean ====
section
/-! SUPPORT. The model's own tests: words and vectors of spec/ (30_encoding.md R94, 95_test_vectors.md), an ill-formed line for
each check of `WellFormed`, and for each statement with hypotheses a state and operands that meet them together. -/

namespace Sys2Proof.Tests

open Sys2Proof.Machine Sys2Proof.Laws

/-! ### Decoding: words written out from R84, R94 and 95 section 2.1 -/

theorem test_decode_nop : decode 0x00000000#32 = .ok .nop := by decide
theorem test_decode_init_servo : decode 0x10A00023#32 = .ok (.initServo 0 1 2 false 35) := by decide
theorem test_decode_init_servo_every_field : decode 0x1BF80BB8#32 = .ok (.initServo 5 3 7 true 3000) := by decide
theorem test_decode_init_servos : decode 0x20000000#32 = .ok .initServos := by decide
theorem test_decode_disarm : decode 0x30000000#32 = .ok .disarm := by decide
theorem test_decode_gie_wr : decode 0x40000001#32 = .ok (.gieWr true) := by decide
theorem test_decode_rd_reg : decode 0x50000005#32 = .ok (.rdReg 5) := by decide
theorem test_decode_rd_ch : decode 0x60000003#32 = .ok (.rdCh 3) := by decide
theorem test_decode_rd_ev : decode 0x7000000B#32 = .ok (.rdEv true 3) := by decide
theorem test_decode_rd_port : decode 0x80000001#32 = .ok (.rdPort 1) := by decide
theorem test_decode_gpio_set : decode 0x90000103#32 = .ok (.gpioSet 1 0x03) := by decide
theorem test_decode_gpio_clr : decode 0xA0000121#32 = .ok (.gpioClr 1 0x21) := by decide
theorem test_decode_gpio_tgl : decode 0xB0000281#32 = .ok (.gpioTgl 2 0x81) := by decide
theorem test_decode_ext_claim : decode 0xC0000000#32 = .ok .extClaim := by decide
theorem test_decode_ext_release : decode 0xD0000000#32 = .ok .extRelease := by decide

/-- The illegal words of 95 section 2.1 (R88). -/
theorem test_decode_illegal_words :
    [0x00000001#32, 0xE0000000#32, 0xF1234567#32, 0x20000001#32, 0x30000100#32, 0xC0000001#32, 0xD8000000#32, 0x40000002#32,
      0x50000010#32, 0x60000008#32, 0x70000010#32, 0x80000004#32, 0x90000400#32, 0x10010001#32, 0x10020001#32, 0x10040001#32,
      0x10A10023#32, 0x1E010000#32].all (fun w => (decodeTableWord 32 w.toNat).isNone) = true := by decide

/-- The words of R94, from the encoder. -/
theorem test_encode_init_servo : encode (.initServo 1 1 5 false 80) = 0x12D00050#32 := by decide
theorem test_encode_gpio_tgl : encode (.gpioTgl 2 0x81) = 0xB0000281#32 := by decide

/-! ### Lines: one ill-formed line for each check (R86, R87) -/

theorem test_wellFormed_accepts_every_field_at_its_top : (Line.initServo 7 3 7 1 (-32768)).wellFormed = true := by decide
theorem test_wellFormed_refuses_index : (Line.initServo 8 0 0 0 1).wellFormed = false := by decide
theorem test_wellFormed_refuses_port : (Line.initServo 0 4 0 0 1).wellFormed = false := by decide
theorem test_wellFormed_refuses_pin : (Line.initServo 0 0 8 0 1).wellFormed = false := by decide
theorem test_wellFormed_refuses_rest : (Line.initServo 0 0 0 2 1).wellFormed = false := by decide
theorem test_wellFormed_refuses_width_above : (Line.initServo 0 0 0 0 32768).wellFormed = false := by decide
theorem test_wellFormed_refuses_width_below : (Line.initServo 0 0 0 0 (-32769)).wellFormed = false := by decide
theorem test_wellFormed_refuses_flag : (Line.gieWr 2).wellFormed = false := by decide
theorem test_wellFormed_refuses_register : (Line.rdReg 16).wellFormed = false := by decide
theorem test_wellFormed_refuses_channel : (Line.rdCh 8).wellFormed = false := by decide
theorem test_wellFormed_refuses_queue : (Line.rdEv 2 0).wellFormed = false := by decide
theorem test_wellFormed_refuses_event : (Line.rdEv 0 8).wellFormed = false := by decide
theorem test_wellFormed_refuses_read_port : (Line.rdPort 4).wellFormed = false := by decide
theorem test_wellFormed_refuses_set_port : (Line.gpioSet 4 0).wellFormed = false := by decide
theorem test_wellFormed_refuses_set_mask : (Line.gpioSet 0 256).wellFormed = false := by decide
theorem test_wellFormed_refuses_clear_port : (Line.gpioClr 4 0).wellFormed = false := by decide
theorem test_wellFormed_refuses_clear_mask : (Line.gpioClr 0 256).wellFormed = false := by decide
theorem test_wellFormed_refuses_toggle_port : (Line.gpioTgl 4 0).wellFormed = false := by decide
theorem test_wellFormed_refuses_toggle_mask : (Line.gpioTgl 0 256).wellFormed = false := by decide
theorem test_wellFormed_refuses_shadow_event : (Line.rdSh 8).wellFormed = false := by decide

/-- R92: "pw may be written negative: -1 encodes as 0xFFFF"; `tick n` is n TICK steps. -/
theorem test_assemble_negative_width_and_events :
    assemble [.initServo 2 0 0 0 (-1), .tick 2, .service] =
      some [.host 0x1400FFFF#32, .tick, .tick, .service] := by decide
/-- The written form of R92, with a comment, a name, a mask in hexadecimal and the two event lines. -/
theorem test_assembleText :
    assembleText "  init_servo 2, 0, 0,0, -1 ; comment\ngpio_tgl 2, 0x81\n\nrd_reg sched_pos\nrd_sh 3\ntick 2\nservice" =
      some [.host 0x1400FFFF#32, .host 0xB0000281#32, .host 0x50000005#32, .host 0x7000000B#32, .tick, .tick, .service] := by
  decide
theorem test_assembleText_refuses :
    assembleText "gpio_set 1, 0x100" = none ∧ assembleText "NOP" = none ∧ assembleText "rd_ev 0" = none ∧
      assembleText "rd_ch 0x1" = none ∧ assembleText "nop," = none := by decide
theorem test_assemble_refuses_an_ill_formed_line : assemble [.nop, .rdEv 0 8] = none := by decide

/-! ### Commands: vectors of 95 sections 2.2 to 2.6, FRAME = 200 where it matters -/

/-- The response word of a reply. -/
def wordOf (r : Reply) : Word := responseWord r.status r.data

/-- The registry of scenario S1 (R137). -/
def registryS1 : Registry :=
  #v[⟨true, 1, 2, false, 35⟩, ⟨true, 1, 5, false, 80⟩, Channel.empty, Channel.empty, Channel.empty, Channel.empty]

/-- The queue of scenario S1 with FRAME = 200 (R137). -/
def queueS1 : Vector Entry 7 :=
  #v[⟨false, 1, 2, false, 35⟩, ⟨false, 1, 5, false, 80⟩, ⟨true, 0, 0, false, 200⟩, Entry.zero, Entry.zero, Entry.zero,
    Entry.zero]

/-- S1 registered, not armed. -/
def registeredS1 : Block := { Block.reset with ch := registryS1 }

/-- S1 armed and running with FRAME = 200: the columns of the SERVICE table of 95 section 2.4. -/
def runningS1 (cnt ocr fbase : Tick) (evi : BitVec 3) (phase : Phase) (port1 : PortBits) (ovr : BitVec 16) : Block :=
  { registeredS1 with
    evq := queueS1, evn := 3, evi := evi, phase := phase, cnt := cnt, ocr := ocr, fbase := fbase, run := true, ocie := true,
    ocf := true, gie := true, town := .servo, ovr := ovr, ports := #v[0, port1, 0, 0] }

theorem test_build_source_scenario : build 200 registryS1 = .built queueS1 3 := by decide
/-- 95 S5: a three-way tie goes by index. -/
theorem test_build_breaks_ties_by_index :
    (match build 1000 #v[⟨true, 0, 0, false, 300⟩, ⟨true, 0, 1, true, 300⟩, Channel.empty, ⟨true, 2, 0, false, 100⟩,
        ⟨true, 0, 4, false, 300⟩, Channel.empty] with
      | .built q n => (q.toList.map fun e => (eventRecord e).toNat) ==
          [0x00200064, 0x0000012C, 0x0003012C, 0x0008012C, 0x004003E8, 0, 0] && n == 5
      | _ => false) = true := by decide
/-- 95 section 2.3: a sum equal to FRAME is accepted, one above is not, and a width equal to FRAME is not. -/
theorem test_build_limits :
    let two (w : Tick) : Registry := (registryS1.set 0 ⟨true, 1, 2, false, 400⟩).set 1 ⟨true, 1, 5, false, w⟩
    (build 1000 (two 600) matches .built _ _) = true ∧ build 1000 (two 601) = .reject ∧
      build 1000 (Block.reset.ch.set 0 ⟨true, 0, 0, false, 1000⟩) = .reject ∧ build 1000 Block.reset.ch = .empty := by decide

theorem test_initServo_writes_the_slot :
    initServo 200 0 1 2 false 35 Block.reset = done { Block.reset with ch := Block.reset.ch.set 0 ⟨true, 1, 2, false, 35⟩ } := by
  decide
/-- 95 section 2.2: the order of the checks. -/
theorem test_initServo_errors :
    wordOf (initServo 200 7 0 0 false 0 registeredS1) = 0x10000000#32 ∧
      wordOf (initServo 200 1 0 0 false 0x8000 registeredS1) = 0x20000000#32 ∧
      wordOf (initServo 200 1 1 2 false 0 registeredS1) = 0x20000000#32 ∧
      wordOf (initServo 200 0 1 5 false 35 registeredS1) = 0x30000000#32 ∧
      wordOf (initServo 200 3 3 3 false 100 (runningS1 50 80 0 1 .scheduled 0x20 0)) = 0x40000000#32 := by decide
theorem test_initServos_arms :
    wordOf (initServos 200 registeredS1) = 0#32 ∧ (initServos 200 registeredS1).block.statusReg = 0x000304E#28 := by decide
/-- 95 S4: a second call rebuilds into the shadow queue. -/
theorem test_initServos_twice :
    (initServos 200 (initServos 200 registeredS1).block).block.statusReg = 0x001B06E#28 ∧
      (initServos 200 (initServos 200 registeredS1).block).block.shq = queueS1 := by decide
theorem test_disarm_keeps_the_pins :
    (disarm (runningS1 35 80 0 1 .scheduled 0x20 0)).block.statusReg = 0x0003211#28 ∧
      (disarm (runningS1 35 80 0 1 .scheduled 0x20 0)).block.ports = #v[0, 0x20, 0, 0] := by decide
theorem test_gieWr_clears : (gieWr false (runningS1 35 80 0 1 .scheduled 0x20 0)).block.gie = false := by decide
/-- 95 section 2.5: RD_REG 0..8 and 9 on the end state of P1. -/
theorem test_rdReg_reads_every_register :
    ([0, 1, 2, 3, 4, 5, 6, 7, 8, 9].map fun r =>
      wordOf (rdReg 200 r { runningS1 235 280 200 1 .scheduled 0x20 0 with ocf := false })) =
      [0x00003257#32, 0x000000EB#32, 0x00000118#32, 0x000000C8#32, 0x000000C8#32, 0x00010118#32, 0x00000000#32, 0x00000023#32,
        0x00000003#32, 0x70000000#32] := by decide
theorem test_rdCh : wordOf (rdCh 0 registeredS1) = 0x00540023#32 ∧ wordOf (rdCh 6 registeredS1) = 0x70000000#32 := by decide
theorem test_rdEv :
    ([0, 1, 2, 3, 7].map fun k => wordOf (rdEv false k (runningS1 0 0 0 0 .active 0 0))) =
      [0x00140023#32, 0x001A0050#32, 0x004000C8#32, 0x00000000#32, 0x70000000#32] := by decide
theorem test_gpio_and_rdPort :
    wordOf (rdPort 1 (gpioSet 1 0x03 Block.reset).block) = 0x00000003#32 ∧
      wordOf (rdPort 1 (gpioClr 1 0x21 (gpioSet 1 0x03 Block.reset).block).block) = 0x00000002#32 := by decide
theorem test_gpioTgl : (gpioTgl 2 0x81 { Block.reset with ports := #v[0, 0, 0x80, 0] }).block.ports = #v[0, 0, 0x01, 0] := by
  decide
theorem test_extClaim :
    (extClaim Block.reset).block.statusReg = 0x0000080#28 ∧
      wordOf (extClaim (runningS1 35 80 0 1 .scheduled 0x20 0)) = 0x50000000#32 ∧
      (extClaim (runningS1 35 80 0 1 .scheduled 0x20 0)).block.fault = true := by decide
theorem test_extRelease :
    (extRelease (extClaim Block.reset).block).block = Block.reset ∧
      (extRelease (runningS1 35 80 0 1 .scheduled 0x20 0)).block = runningS1 35 80 0 1 .scheduled 0x20 0 := by decide

/-! ### TICK and SERVICE: the tables of 95 section 2.4 -/

theorem test_tick_wraps_and_matches :
    tick { runningS1 65535 0 0 0 .scheduled 0 0 with ocf := false } = runningS1 0 0 0 0 .scheduled 0 0 := by decide
/-- V1, the initial drive. -/
theorem test_service_V1 :
    service 200 (runningS1 0 0 0 0 .active 0x00 0) = some { runningS1 0 35 0 0 .scheduled 0x24 0 with ocf := false } := by decide
/-- V4, the wrap. -/
theorem test_service_V4 :
    service 200 (runningS1 200 200 0 2 .scheduled 0x00 0) =
      some { runningS1 200 235 200 0 .scheduled 0x24 0 with ocf := false } := by decide
/-- V6, a missed event. -/
theorem test_service_V6 :
    service 200 (runningS1 90 35 0 0 .scheduled 0x24 0) =
      some { runningS1 90 200 0 2 .scheduled 0x00 1 with ocf := false } := by decide
/-- V8, a late wrap and an entry of the new frame: missed, because `arm` has gone down by FRAME. -/
theorem test_service_V8 :
    service 200 (runningS1 250 200 0 2 .scheduled 0x00 0) =
      some { runningS1 250 280 200 1 .scheduled 0x20 1 with ocf := false } := by decide
/-- V9, late by more than a frame. -/
theorem test_service_V9 :
    service 200 (runningS1 450 200 0 2 .scheduled 0x00 0) =
      some { runningS1 450 480 400 1 .scheduled 0x20 1 with ocf := false } := by decide
/-- V12, OVR saturates. -/
theorem test_service_V12 :
    service 200 (runningS1 90 35 0 0 .scheduled 0x24 65535) =
      some { runningS1 90 200 0 2 .scheduled 0x00 65535 with ocf := false } := by decide

/-! ### Witnesses: states for the uninterpreted FRAME

One channel of width 1, so that its schedule is legal whatever FRAME is; three channels of the largest width, so that theirs is
not. -/

/-- Channel 0 on port 1 pin 2, one tick wide. -/
def shortPulse : Channel := ⟨true, 1, 2, false, 1⟩

/-- The same on pin 3. -/
def otherPulse : Channel := ⟨true, 1, 3, false, 1⟩

/-- A registry of one channel. -/
def registryOf (c : Channel) : Registry := Block.reset.ch.set 0 c

/-- Three channels whose widths sum to 98301. -/
def tooLong : Registry :=
  ((Block.reset.ch.set 0 ⟨true, 1, 2, false, 0x7FFF⟩).set 1 ⟨true, 1, 3, false, 0x7FFF⟩).set 2 ⟨true, 1, 4, false, 0x7FFF⟩

/-- The queue of one channel. -/
def scheduleOf (c : Channel) : Vector Entry 7 := queueOf [restEntry c, wrapMarker Config.frameTicks]

/-- Just armed with one channel, interrupts enabled. -/
def armed : Block :=
  { Block.reset with
    ch := registryOf shortPulse, evq := scheduleOf shortPulse, evn := 2, ocf := true, run := true, ocie := true, gie := true,
    town := .servo }

/-- Armed, served at tick 0: the pin is active and the compare is programmed for its end. -/
def served : Block := { armed with phase := .scheduled, ocf := false, ocr := 1, ports := #v[0, 0x04, 0, 0] }

/-- One tick later: the request for the pulse's end is pending. -/
def pulseEnd : Block := { served with cnt := 1, ocf := true }

/-- Served at tick 1: the pin is at rest and only the marker remains. -/
def resting : Block := { served with cnt := 1, evi := 1, ocr := tick16 Config.frameTicks, ports := Block.reset.ports }

/-- At tick FRAME: the request of the wrap is pending, and with it a schedule on another pin. -/
def wrapping : Block :=
  { resting with
    cnt := tick16 Config.frameTicks, ocf := true, shq := scheduleOf otherPulse, shn := 2, pend := true }

/-- Armed and not served until tick 1: the pulse's end is a missed event. -/
def servedLate : Block := { armed with cnt := 1 }

/-- A machine with this block and this next offer. -/
def offering (b : Block) (e : Event) : State := { State.reset with block := b, inputs := [e] }

/-- A machine with this block. -/
def holding (b : Block) : State := { State.reset with block := b }

theorem toNat_tick16_frame : (tick16 Config.frameTicks).toNat = Config.frameTicks := by
  have := Config.frameTicks_le
  simp only [tick16, BitVec.toNat_ofNat]
  omega

theorem scheduleOf_zero (c : Channel) : entryAt (scheduleOf c) 0 = restEntry c := rfl

theorem scheduleOf_one (c : Channel) : entryAt (scheduleOf c) 1 = wrapMarker Config.frameTicks := rfl

theorem build_one {c : Channel} (hs : sortedSlots (registryOf c) = [0]) (hw : c.pw = 1) :
    build Config.frameTicks (registryOf c) = .built (scheduleOf c) 2 := by
  have hF := Config.two_le_frameTicks
  have h0 : widthOf (registryOf c) 0 = 1 := by simp [widthOf, registryOf, hw]
  rw [build_eq_built_iff, hs]
  refine ⟨by decide, ?_, ?_, ?_, rfl⟩
  · simp [totalWidth, h0]; omega
  · simp [lastWidth, h0]; omega
  · simp [scheduleOf, registryOf]

theorem build_shortPulse : build Config.frameTicks (registryOf shortPulse) = .built (scheduleOf shortPulse) 2 :=
  build_one (by decide) rfl

theorem build_tooLong : build Config.frameTicks tooLong = .reject := by
  have hF := Config.frameTicks_le
  rw [build_eq_reject_iff]
  refine ⟨by decide, .inl ?_⟩
  have : totalWidth tooLong (sortedSlots tooLong) = 98301 := by decide
  omega

theorem queueOk_scheduleOf {c : Channel} (hw : c.pw = 1) : QueueOk Config.frameTicks (scheduleOf c) 2 := by
  have hF := Config.two_le_frameTicks
  have hz : ∀ k, k < 2 - 1 → k = 0 := by omega
  constructor
  · decide
  · decide
  · rfl
  · exact toNat_tick16_frame
  · intro k hk; rw [hz k hk]; rfl
  · intro k hk; rw [hz k hk, scheduleOf_zero, restEntry, hw]; exact Nat.le_refl 1
  · intro k hk; rw [hz k hk, scheduleOf_zero, restEntry, hw]; exact hF
  · intro j k hjk hk; rw [hz k hk, hz j (by omega)]
  · intro j k hjk hk; omega

theorem registryOk_shortPulse : RegistryOk (registryOf shortPulse) := by constructor <;> decide

/-- The blocks above are sound in their data. -/
theorem blockOk_of {b : Block} (hch : b.ch = registryOf shortPulse) (hevq : b.evq = scheduleOf shortPulse) (hevn : b.evn = 2)
    (hrun : b.run = true) (hocie : b.ocie = true) (htown : b.town = .servo) (hevi : b.evi.toNat ≤ 1)
    (hshadow : b.shn = 0 ∧ b.pend = false ∨ b.shn = 2 ∧ b.shq = scheduleOf otherPulse) : BlockOk Config.frameTicks b := by
  constructor
  · rw [hch]; exact registryOk_shortPulse
  · intro _; rw [hevq, hevn]; exact queueOk_scheduleOf rfl
  · rcases hshadow with ⟨hn, -⟩ | ⟨hn, hq⟩
    · rw [hn]; intro h; exact absurd h (by decide)
    · intro _; rw [hn, hq]; exact queueOk_scheduleOf rfl
  · rw [hrun, hocie]
  · rw [hrun, htown]; rfl
  · intro _; exact hrun
  · intro _; exact hrun
  · intro _; rw [hevn]; decide
  · intro _; rw [hevn]; exact hevi
  · rcases hshadow with ⟨-, hp⟩ | ⟨hn, -⟩
    · rw [hp]; intro h; exact absurd h (by decide)
    · intro _; rw [hn]; decide

theorem armed_ok : BlockOk Config.frameTicks armed := blockOk_of rfl rfl rfl rfl rfl rfl (by decide) (.inl ⟨rfl, rfl⟩)
theorem served_ok : BlockOk Config.frameTicks served := blockOk_of rfl rfl rfl rfl rfl rfl (by decide) (.inl ⟨rfl, rfl⟩)
theorem pulseEnd_ok : BlockOk Config.frameTicks pulseEnd := blockOk_of rfl rfl rfl rfl rfl rfl (by decide) (.inl ⟨rfl, rfl⟩)
theorem resting_ok : BlockOk Config.frameTicks resting := blockOk_of rfl rfl rfl rfl rfl rfl (by decide) (.inl ⟨rfl, rfl⟩)
theorem wrapping_ok : BlockOk Config.frameTicks wrapping := blockOk_of rfl rfl rfl rfl rfl rfl (by decide) (.inr ⟨rfl, rfl⟩)
theorem servedLate_ok : BlockOk Config.frameTicks servedLate :=
  blockOk_of rfl rfl rfl rfl rfl rfl (by decide) (.inl ⟨rfl, rfl⟩)

theorem armed_sound : BlockSound Config.frameTicks armed :=
  ⟨armed_ok, by constructor <;> simp [armed, Block.reset]⟩

theorem served_sound : BlockSound Config.frameTicks served :=
  ⟨served_ok, ⟨by simp [served], fun _ _ => rfl, fun _ _ => by decide⟩⟩

theorem pulseEnd_sound : BlockSound Config.frameTicks pulseEnd :=
  ⟨pulseEnd_ok, ⟨by simp [pulseEnd, served], fun _ _ => rfl, by simp [pulseEnd]⟩⟩

theorem served_pulses : PulsesOk served := by
  constructor
  · intro _ _ k hk; exact absurd hk (by simp [served, armed, Block.reset])
  · intro _ _ k _ hk
    have : k = 0 := by simp [served, armed] at hk; omega
    rw [this]; rfl
  · intro _ _ k hk; exact absurd hk (by simp [served, armed, Block.reset])
  · simp [served]

theorem pulseEnd_pulses : PulsesOk pulseEnd := by
  constructor
  · intro _ _ k hk; exact absurd hk (by simp [pulseEnd, served, armed, Block.reset])
  · intro _ _ k _ hk
    have : k = 0 := by simp [pulseEnd, served, armed] at hk; omega
    rw [this]; rfl
  · intro _ _ k hk; exact absurd hk (by simp [pulseEnd, served, armed, Block.reset])
  · intro _ _ _; decide

theorem resting_pulses : PulsesOk resting := by
  constructor
  · intro _ _ k hk
    have : k = 0 := by simp [resting] at hk; omega
    rw [this]; rfl
  · intro _ _ k hk hk'
    simp [resting, served, armed] at hk hk'
    omega
  · intro _ _ k hk
    have : k = 0 := by simp [resting] at hk; omega
    rw [this]; decide
  · simp [resting, served]

/-! ### Witnesses: steps -/

theorem step_command {b : Block} {w : Word} {i : Instr} (hf : b.fault = false) (hd : decode w = .ok i) :
    step (offering b (.host w)) = .next ((holding b).answer (replyOf i b)) := by
  have he : (offering b (.host w)).nextEvent = .host w := rfl
  have hdrop : (offering b (.host w)).dropEvent = holding b := rfl
  have hb : (holding b).block = b := rfl
  rw [step, he]
  simp only [commandStep, hd, hdrop]
  rw [exec_live (s := holding b) hf, hb]

theorem step_tick {b : Block} (hf : b.fault = false) (hr : b.run = true) :
    step (offering b .tick) = .next ((holding b).silent (tick b)) := by
  have hdrop : (offering b .tick).dropEvent = holding b := rfl
  have hb : (holding b).block = b := rfl
  have he : (offering b .tick).nextEvent = .tick := rfl
  rw [step, he]
  simp only [tickStep, hdrop, hb, hr, if_true, unlessFaulted_of_live (s := holding b) hf]

theorem step_offered_service {b b' : Block} (hf : b.fault = false) (he : b.interruptEnabled = true)
    (hs : service Config.frameTicks b = some b') : step (offering b .service) = .next ((holding b).silent b') :=
  step_service (s := offering b .service) hf rfl he hs

theorem service_completes {b : Block} (h : BlockOk Config.frameTicks b) (hr : b.run = true) :
    ∃ b', service Config.frameTicks b = some b' := by
  have hF := Config.two_le_frameTicks
  obtain ⟨w, hw, -⟩ := serviceLoop_sound (by omega) h hr
  exact ⟨_, service_of_loop hw⟩

/-- The SERVICE step of `servedLate` applies its one entry, late (R158). -/
theorem service_servedLate :
    service Config.frameTicks servedLate = some (finishService (afterRest 1 (startService servedLate))) := by
  have hF := Config.two_le_frameTicks
  have h := serviceLoop_rest (frame := Config.frameTicks) 1 16 (startService servedLate) (by decide) (by
    intro k hk hk'
    have : k = 0 := by
      have h0 : (startService servedLate).block.evi.toNat = 0 := by decide
      omega
    rw [this]; decide)
  refine service_of_loop ?_
  have hb : passBound servedLate.now = 16 + 1 := by decide
  rw [hb, h, serviceLoop]
  have hi : (afterRest 1 (startService servedLate)).block.evi = 1 := by decide
  have hq : (afterRest 1 (startService servedLate)).block.evq = scheduleOf shortPulse := rfl
  have hd : isDue (afterRest 1 (startService servedLate)).now (wrapMarker Config.frameTicks) = false := by
    have hn : (afterRest 1 (startService servedLate)).now = 1 := by decide
    rw [isDue_eq_false_iff, hn]
    show (1 : Int) < ((tick16 Config.frameTicks).toNat : Int)
    rw [toNat_tick16_frame]; omega
  rw [hi, hq, getElem?_eq_entryAt (by decide)]
  simp only [BitVec.ofNat_eq_ofNat, BitVec.toNat_ofNat, Nat.reducePow, Nat.reduceMod, scheduleOf_one, hd, Bool.false_eq_true,
    if_false]

/-- The SERVICE step of `wrapping` executes the marker and commits (R157). -/
theorem service_wrapping :
    service Config.frameTicks wrapping =
      some (finishService (applyWrap Config.frameTicks { startService wrapping with missed := false })) := by
  have hF := Config.two_le_frameTicks
  have hnow : wrapping.now.toNat = Config.frameTicks := by
    show (tick16 Config.frameTicks - 0#16).toNat = _
    rw [BitVec.sub_zero, toNat_tick16_frame]
  have harm : wrapping.armedFor.toNat = Config.frameTicks := by
    show (tick16 Config.frameTicks - 0#16).toNat = _
    rw [BitVec.sub_zero, toNat_tick16_frame]
  have hmark : ((wrapMarker Config.frameTicks).tick.toNat : Int) = Config.frameTicks := by
    show ((tick16 Config.frameTicks).toNat : Int) = _
    rw [toNat_tick16_frame]
  refine service_of_loop ?_
  have hb : passBound wrapping.now = (Config.frameTicks * 8 + 7) + 1 + 1 := by rw [passBound, hnow]
  have hi : (startService wrapping).block.evi = 1 := rfl
  have hq : (startService wrapping).block.evq = scheduleOf shortPulse := rfl
  have hd : isDue (startService wrapping).now (wrapMarker Config.frameTicks) = true := by
    rw [isDue_iff, hmark]
    show _ ≤ ((wrapping.now.toNat : Nat) : Int)
    rw [hnow]
  have hm : isMissed (startService wrapping).arm (wrapMarker Config.frameTicks) = false := by
    have : (startService wrapping).arm = (Config.frameTicks : Int) := by
      show ((wrapping.armedFor.toNat : Nat) : Int) = _
      rw [harm]
    simp [isMissed, this, hmark]
  rw [hb, serviceLoop, hi, hq, getElem?_eq_entryAt (by decide)]
  have hw : (wrapMarker Config.frameTicks).wrap = true := rfl
  have hmiss : (startService wrapping).missed = false := rfl
  simp only [BitVec.ofNat_eq_ofNat, BitVec.toNat_ofNat, Nat.reducePow, Nat.reduceMod, scheduleOf_one, hd, if_true, applyDue, hw, hm,
    hmiss, Bool.or_false]
  generalize hu : applyWrap Config.frameTicks { startService wrapping with missed := false } = u
  have hui : u.block.evi = 0 := by rw [← hu]; simp
  have huq : u.block.evq = scheduleOf otherPulse := by rw [← hu]; rfl
  have hun : u.now = 0 := by
    rw [← hu]
    show ((wrapping.now.toNat : Nat) : Int) - Config.frameTicks = 0
    rw [hnow]; omega
  rw [serviceLoop, hui, huq, getElem?_eq_entryAt (by decide)]
  simp only [BitVec.ofNat_eq_ofNat, BitVec.toNat_ofNat, Nat.reducePow, Nat.zero_mod, scheduleOf_zero]
  have : isDue u.now (restEntry otherPulse) = false := by rw [hun]; decide
  simp only [this, Bool.false_eq_true, if_false]

/-! ### Witnesses: for each statement with hypotheses, a state and operands that meet them together -/

theorem witness_EncodeOfDecodeIsTheWord : decode 0x1BF80BB8#32 = .ok (.initServo 5 3 7 true 3000) := by decide

theorem witness_ReservedWordsAreIllegal :
    (holding Block.reset).Live ∧
    (offering Block.reset (.host 0x00000001#32)).nextEvent = .host 0x00000001#32 ∧
    decode 0x00000001#32 = .error .reservedBitSet ∧ decode 0xE0000000#32 = .error .reservedOpcode ∧
    6 ≤ (6#3).toNat ∧ 9 ≤ (9#4).toNat := by decide

theorem witness_StepRunsDecodedCommand :
    (offering armed (.host 0x00000000#32)).nextEvent = .host 0x00000000#32 ∧ decode 0x00000000#32 = .ok .nop ∧
    (offering armed .tick).inputs = [.tick] ∧ (holding armed).inputs = [] := ⟨rfl, by decide, rfl, rfl⟩

theorem witness_OnlyCommandsEnabledAfterReset :
    (offering Block.reset .tick).block = Block.reset ∧ (offering Block.reset .tick).nextEvent = .tick ∧
    (offering Block.reset .service).block = Block.reset ∧ (offering Block.reset .service).nextEvent = .service := by decide

theorem witness_FaultedBlockStops : (holding { Block.reset with fault := true }).block.fault = true := rfl

theorem witness_NopChangesNothing : (holding armed).Live := rfl

theorem witness_GpioCommandsWriteMaskedBits : (holding pulseEnd).Live ∧ (0xC3#8).getLsbD 7 = true ∧ (0xC3#8).getLsbD 2 = false := by
  decide

theorem witness_RdPortReadsTheLatch : (holding pulseEnd).Live := rfl

theorem witness_GieWrWritesGie :
    exec (.gieWr true) (holding armed) = .next ((holding armed).answer (replyOf (.gieWr true) armed)) :=
  exec_live (s := holding armed) rfl _

theorem witness_SomeCommandsCannotFail : (holding armed).Live ∧ ∃ p m, Instr.gpioTgl 2 0x81 = .gpioTgl p m :=
  ⟨rfl, 2, 0x81, rfl⟩

theorem witness_InitServosArmsOrRebuilds :
    (holding armed).Live ∧
    ({ Block.reset with town := .other } : Block).town = .other ∧
    (Block.reset.town ≠ .other ∧ ∀ i : Fin 6, Block.reset.ch[i].valid = false) ∧
    (({ Block.reset with ch := tooLong } : Block).town ≠ .other ∧
      build Config.frameTicks ({ Block.reset with ch := tooLong } : Block).ch = .reject) ∧
    (({ Block.reset with ch := registryOf shortPulse } : Block).town = .free ∧
      build Config.frameTicks ({ Block.reset with ch := registryOf shortPulse } : Block).ch =
        .built (scheduleOf shortPulse) 2) ∧
    (armed.town = .servo ∧ build Config.frameTicks armed.ch = .built (scheduleOf shortPulse) 2) :=
  ⟨rfl, rfl, by decide, ⟨by decide, build_tooLong⟩, ⟨rfl, build_shortPulse⟩, rfl, build_shortPulse⟩

theorem witness_DisarmStopsTheTimer :
    (holding armed).Live ∧ armed.town = .servo ∧
    (∃ t, exec .disarm (holding armed) = .next t) ∧ (holding Block.reset).block.town ≠ .servo ∧
    Block.reset.run = false ∧ Block.reset.ocf = false ∧ ¬ (offering Block.reset .tick).OffersCommand .initServos ∧
    ∃ t, step (offering Block.reset .tick) = .next t := by
  refine ⟨rfl, rfl, ⟨_, exec_live (s := holding armed) rfl _⟩, by decide, rfl, rfl, ?_, _, rfl⟩
  rintro ⟨w, hw, -⟩
  cases hw

theorem witness_RdRegReadsTheRegister : (holding armed).Live ∧ 9 ≤ (9#4).toNat ∧ (8#4).toNat ≤ 8 := ⟨rfl, by decide, by decide⟩

/-- The clauses of INIT_SERVO, each at a boundary: idx 6 and 5, pw 0, 0x8000, 1 and 0x7FFF. -/
theorem witness_InitServoChecksThenRegisters :
    (holding armed).Live ∧ 6 ≤ (6#3).toNat ∧ (5#3).toNat < 6 ∧
    (0x0000#16).toInt ≤ 0 ∧ (0x8000#16).toInt ≤ 0 ∧ 0 < (0x0001#16).toInt ∧ 0 < (0x7FFF#16).toInt ∧
    (∃ j : Fin 6, j.val ≠ (5#3).toNat ∧ armed.ch[j].valid = true ∧ armed.ch[j].port = 1 ∧ armed.ch[j].pin = 2) ∧
    ¬(∃ j : Fin 6, j.val ≠ (5#3).toNat ∧ armed.ch[j].valid = true ∧ armed.ch[j].port = 3 ∧ armed.ch[j].pin = 7) ∧
    Block.reset.town ≠ .servo ∧ armed.town = .servo := by
  refine ⟨rfl, ?_⟩
  decide

/-- Armed clauses of INIT_SERVO: a rebuild that is built (the slot registered again) and one that is rejected. -/
theorem witness_InitServo_rebuilds :
    build Config.frameTicks (armed.ch.set 0 shortPulse) = .built (scheduleOf shortPulse) 2 ∧
    build Config.frameTicks (({ armed with ch := tooLong } : Block).ch.set 0 ⟨true, 1, 2, false, 0x7FFF⟩) = .reject := by
  refine ⟨?_, ?_⟩
  · have : armed.ch.set 0 shortPulse = registryOf shortPulse := by decide
    rw [this]; exact build_shortPulse
  · have : ({ armed with ch := tooLong } : Block).ch.set 0 ⟨true, 1, 2, false, 0x7FFF⟩ = tooLong := by
      show tooLong.set 0 ⟨true, 1, 2, false, 0x7FFF⟩ = tooLong
      decide
    rw [this]; exact build_tooLong

theorem witness_RegistrationHasNoHardwareEffect :
    (∃ t, exec (.initServo 0 1 2 false 1) (holding Block.reset) = .next t) ∧ (holding Block.reset).block.town ≠ .servo ∧
    ∃ j : Fin 6, j.val ≠ (0#3).toNat :=
  ⟨⟨_, exec_live (s := holding Block.reset) rfl _⟩, by decide, 1, by decide⟩

theorem witness_RdChReadsTheSlot : (holding armed).Live ∧ 6 ≤ (6#3).toNat ∧ (5#3).toNat < 6 := ⟨rfl, by decide, by decide⟩

theorem witness_RdEvReadsTheEntry : (holding armed).Live ∧ (7#3) = 7 ∧ (6#3).toNat < 7 := ⟨rfl, rfl, by decide⟩

theorem witness_BuildRejectsMalformedSchedules :
    build Config.frameTicks Block.reset.ch = .empty ∧ build Config.frameTicks tooLong = .reject ∧
    build 1000 (registryOf ⟨true, 0, 0, false, 1000⟩) = .reject :=
  ⟨by rw [build_eq_empty_iff]; decide, build_tooLong, by decide⟩

theorem witness_BuildEmitsChannelsInOrder : build 200 registryS1 = .built queueS1 3 := by decide

theorem witness_BuiltQueueIsSound :
    200 ≤ 65535 ∧ RegistryOk registryS1 ∧ build 200 registryS1 = .built queueS1 3 := by
  refine ⟨by decide, ?_, by decide⟩
  constructor <;> decide

theorem witness_SourceScenarioSchedule : 115 ≤ 115 ∧ 115 ≤ 65535 ∧ 115 ≤ 65535 ∧ 65535 ≤ 65535 := by decide

theorem witness_ExtClaimTakesOrFaults :
    (holding armed).Live ∧ Block.reset.town = .free ∧ ({ Block.reset with town := .other } : Block).town = .other ∧
    armed.town = .servo := ⟨rfl, rfl, rfl, rfl⟩

theorem witness_ExtReleaseFreesOthersTimer :
    (holding { Block.reset with town := .other }).Live ∧ ({ Block.reset with town := .other } : Block).town = .other ∧
    armed.town ≠ .other := ⟨rfl, rfl, by decide⟩

/-- The four transfers of R208, each taken by one step. -/
theorem witness_OwnershipTransfersOnlyByCommand :
    (∃ t, step (offering { Block.reset with ch := registryOf shortPulse } (.host 0x20000000#32)) = .next t ∧
      t.block.town = .servo) ∧
    (∃ t, step (offering armed (.host 0x30000000#32)) = .next t ∧ t.block.town = .free) ∧
    (∃ t, step (offering Block.reset (.host 0xC0000000#32)) = .next t ∧ t.block.town = .other) ∧
    (∃ t, step (offering { Block.reset with town := .other } (.host 0xD0000000#32)) = .next t ∧ t.block.town = .free) := by
  refine ⟨⟨_, step_command rfl (i := .initServos) (by decide), ?_⟩, ⟨_, step_command rfl (i := .disarm) (by decide), rfl⟩,
    ⟨_, step_command rfl (i := .extClaim) (by decide), rfl⟩, ⟨_, step_command rfl (i := .extRelease) (by decide), rfl⟩⟩
  simp only [State.answer_block, replyOf, initServos, build_shortPulse]
  rfl

theorem witness_TickAdvancesTheCounter :
    (offering armed .tick).Live ∧ (offering armed .tick).nextEvent = .tick ∧ (offering armed .tick).block.run = true :=
  ⟨rfl, rfl, rfl⟩

/-- A match, and the arming. -/
theorem witness_RequestArisesOnlyFromMatchOrArming :
    (∃ t, step (offering served .tick) = .next t ∧ served.ocf = false ∧ t.block.ocf = true) ∧
    (∃ t, step (offering { Block.reset with ch := registryOf shortPulse } (.host 0x20000000#32)) = .next t ∧
      Block.reset.ocf = false ∧ t.block.ocf = true) := by
  refine ⟨⟨_, step_tick rfl rfl, rfl, by decide⟩, ⟨_, step_command rfl (i := .initServos) (by decide), rfl, ?_⟩⟩
  simp only [State.answer_block, replyOf, initServos, build_shortPulse]
  rfl

theorem witness_PendingRequestIsNeverLost :
    (∃ t, step (offering armed .tick) = .next t) ∧ armed.ocf = true ∧ ¬ (offering armed .tick).OffersCommand .disarm ∧
    ¬((offering armed .tick).nextEvent = .service ∧ armed.interruptEnabled = true) := by
  refine ⟨⟨_, step_tick rfl rfl⟩, rfl, ?_, ?_⟩
  · rintro ⟨w, hw, -⟩
    cases hw
  · rintro ⟨h, -⟩
    cases h

theorem witness_DisabledOffersChangeNothing :
    (offering Block.reset .tick).Live ∧ (offering Block.reset .tick).nextEvent = .tick ∧ Block.reset.run = false ∧
    (offering { armed with gie := false } .service).Live ∧
    (offering { armed with gie := false } .service).nextEvent = .service ∧ ({ armed with gie := false } : Block).gie = false ∧
    ({ armed with ocie := false } : Block).ocie = false ∧ served.ocf = false := ⟨rfl, rfl, rfl, rfl, rfl, rfl, rfl, rfl⟩

theorem witness_ServiceLeavesConsistentPair :
    (offering armed .service).Live ∧ BlockOk Config.frameTicks (offering armed .service).block ∧
    (offering armed .service).nextEvent = .service ∧ (offering armed .service).block.interruptEnabled = true :=
  ⟨rfl, armed_ok, rfl, rfl⟩

theorem witness_ServiceFrame :
    BlockOk Config.frameTicks pulseEnd ∧ (offering pulseEnd .service).nextEvent = .service ∧
    pulseEnd.interruptEnabled = true ∧ ∃ t, step (offering pulseEnd .service) = .next t := by
  obtain ⟨b', hb'⟩ := service_completes pulseEnd_ok rfl
  exact ⟨pulseEnd_ok, rfl, rfl, _, step_offered_service rfl rfl hb'⟩

theorem witness_FrameNeverDrifts :
    BlockOk Config.frameTicks wrapping ∧ (offering wrapping .service).nextEvent = .service ∧
    wrapping.interruptEnabled = true ∧ ∃ t, step (offering wrapping .service) = .next t :=
  ⟨wrapping_ok, rfl, rfl, _, step_offered_service rfl rfl service_wrapping⟩

/-- The first service at tick 0 reaches entry 0, the late one entry 1. -/
theorem witness_ServiceAppliesDueEntries :
    ((offering armed .service).Live ∧ BlockOk Config.frameTicks armed ∧ armed.interruptEnabled = true ∧
      armed.evi.toNat ≤ 0 ∧ 0 ≤ armed.evn.toNat - 1 ∧ armed.now.toNat < (entryAt armed.evq 0).tick.toNat) ∧
    (BlockOk Config.frameTicks servedLate ∧ servedLate.evi.toNat ≤ 1 ∧ 1 ≤ servedLate.evn.toNat - 1 ∧
      (∀ k, servedLate.evi.toNat ≤ k → k < 1 → (entryAt servedLate.evq k).tick.toNat ≤ servedLate.now.toNat) ∧
      servedLate.now.toNat < (entryAt servedLate.evq 1).tick.toNat) := by
  have hF := Config.two_le_frameTicks
  refine ⟨⟨rfl, armed_ok, rfl, by decide, by decide, by decide⟩, servedLate_ok, by decide, by decide, ?_, ?_⟩
  · intro k _ hk
    have : k = 0 := by omega
    rw [this]; decide
  · show 1 < (tick16 Config.frameTicks).toNat
    rw [toNat_tick16_frame]; omega

theorem now_wrapping : wrapping.now.toNat = Config.frameTicks := by
  show (tick16 Config.frameTicks - 0#16).toNat = _
  rw [BitVec.sub_zero, toNat_tick16_frame]

theorem witness_ServiceWrapsTheFrame :
    (offering wrapping .service).Live ∧ BlockOk Config.frameTicks wrapping ∧
    (offering wrapping .service).nextEvent = .service ∧ wrapping.interruptEnabled = true ∧
    Config.frameTicks ≤ wrapping.now.toNat ∧
    wrapping.now.toNat - Config.frameTicks < (entryAt (if wrapping.pend then wrapping.shq else wrapping.evq) 0).tick.toNat := by
  rw [now_wrapping, Nat.sub_self]
  exact ⟨rfl, wrapping_ok, rfl, rfl, le_rfl, by decide⟩

theorem queueOk_queueS1 : QueueOk 200 queueS1 3 := by
  have hz : ∀ k, k < 3 - 1 → k = 0 ∨ k = 1 := by omega
  constructor
  · decide
  · decide
  · decide
  · decide
  · intro k hk; rcases hz k hk with rfl | rfl <;> decide
  · intro k hk; rcases hz k hk with rfl | rfl <;> decide
  · intro k hk; rcases hz k hk with rfl | rfl <;> decide
  · intro j k hjk hk
    rcases hz k hk with rfl | rfl <;> rcases hz j (by omega) with rfl | rfl <;> first | decide | omega
  · intro j k hjk hk
    rcases hz k hk with rfl | rfl <;> rcases hz j (by omega) with rfl | rfl <;> first | decide | omega

/-- S1 with FRAME = 200, waiting at the marker with its request pending, at any counter value. -/
theorem waitingS1_sound (cnt : Tick) : BlockSound 200 (runningS1 cnt 200 0 2 .scheduled 0x00 0) := by
  have hreg : RegistryOk registryS1 := by constructor <;> decide
  have hempty : ¬ 0 < (0#3).toNat := by decide
  exact ⟨⟨hreg, fun _ => queueOk_queueS1, fun h => absurd h hempty, rfl, rfl, fun _ => rfl, fun _ => rfl,
      fun _ => (by decide : 2 ≤ (3#3).toNat), fun _ => (by decide : (2#3).toNat ≤ (3#3).toNat - 1), fun h => by cases h⟩,
    { first := fun _ h => (by cases h), aimed := fun _ _ => (by decide : 200#16 - 0#16 = 200#16), ahead := fun _ h => (by cases h) }⟩

/-- V7, V8 and V9 with FRAME = 200, and the last place `j` can be: at now = 290 only the new frame's marker lies ahead. -/
theorem witness_LateServiceRunsThroughFrames :
    (∀ cnt, BlockSound 200 (runningS1 cnt 200 0 2 .scheduled 0x00 0) ∧
      (runningS1 cnt 200 0 2 .scheduled 0x00 0).interruptEnabled = true) ∧
    (∀ p ∈ [((210 : Tick), 0), (250, 1), (450, 1), (290, 2)],
      let b := runningS1 p.1 200 0 2 .scheduled 0x00 0
      200 ≤ b.now.toNat ∧ p.2 ≤ b.evn.toNat - 1 ∧
        (∀ k, k < p.2 → (entryAt b.evq k).tick.toNat ≤ b.now.toNat % 200) ∧
        b.now.toNat % 200 < (entryAt b.evq p.2).tick.toNat) ∧
    ((offering wrapping .service).Live ∧ (offering wrapping .service).nextEvent = .service ∧
      wrapping.interruptEnabled = true ∧ ∃ b, service Config.frameTicks wrapping = some b) :=
  ⟨fun cnt => ⟨waitingS1_sound cnt, rfl⟩, by decide, rfl, rfl, rfl, _, service_wrapping⟩

/-- A late first service, which misses its entry, and one on time, which misses none. -/
theorem witness_ServiceCountsMissedEvents :
    ((offering servedLate .service).Live ∧ BlockSound Config.frameTicks servedLate ∧
      (offering servedLate .service).nextEvent = .service ∧ servedLate.interruptEnabled = true ∧
      servedLate.evi.toNat ≤ 0 ∧ 0 ≤ servedLate.evn.toNat - 1 ∧
      (entryAt servedLate.evq 0).tick.toNat ≤ servedLate.now.toNat ∧
      servedLate.armedFor.toNat < (entryAt servedLate.evq 0).tick.toNat) ∧
    ((offering pulseEnd .service).Live ∧ BlockSound Config.frameTicks pulseEnd ∧ pulseEnd.interruptEnabled = true) :=
  ⟨⟨rfl, ⟨servedLate_ok, by constructor <;> simp [servedLate, armed, Block.reset]⟩, rfl, rfl, by decide, by decide, by decide,
    by decide⟩, rfl, pulseEnd_sound, rfl⟩

theorem witness_OnTimeServiceIsNoOverrun :
    (offering pulseEnd .service).nextEvent = .service ∧ pulseEnd.cnt = pulseEnd.ocr ∧
    ∃ t, step (offering pulseEnd .service) = .next t := ⟨rfl, rfl, witness_ServiceFrame.2.2.2⟩

theorem witness_FrameTickIsTrueWithinLatencyBound :
    BlockSound Config.frameTicks pulseEnd ∧ pulseEnd.run = true ∧ pulseEnd.phase = .scheduled ∧
    pulseEnd.latency ≤ 65535 - Config.frameTicks ∧ pulseEnd.evi.toNat ≤ 0 ∧ 0 ≤ pulseEnd.evn.toNat - 1 ∧
    (entryAt pulseEnd.evq 0).tick.toNat ≤ pulseEnd.now.toNat := by
  have : pulseEnd.latency = 0 := by decide
  rw [this]
  exact ⟨pulseEnd_sound, rfl, rfl, Nat.zero_le _, by decide, by decide, by decide⟩

theorem witness_ServiceTouchesOnlyScheduledPins :
    BlockOk Config.frameTicks wrapping ∧ (offering wrapping .service).nextEvent = .service ∧
    (∃ t, step (offering wrapping .service) = .next t) ∧ ¬ wrapping.Drives 0 0 ∧ wrapping.pend = true ∧
    ∀ k, k < wrapping.shn.toNat - 1 → ¬((entryAt wrapping.shq k).port = 0 ∧ (entryAt wrapping.shq k).pin = 0) := by
  obtain ⟨b', hb'⟩ := service_completes wrapping_ok rfl
  have hz : ∀ k, k < 2 - 1 → k = 0 := by omega
  refine ⟨wrapping_ok, rfl, ⟨_, step_offered_service rfl rfl hb'⟩, ?_, rfl, ?_⟩
  · rintro ⟨k, hk, hp, -⟩
    rw [hz k hk] at hp
    exact absurd hp (by decide)
  · rintro k hk ⟨hp, -⟩
    rw [hz k hk] at hp
    exact absurd hp (by decide)

theorem witness_InitialDriveActivatesEveryPin :
    QueueOk Config.frameTicks armed.evq armed.evn.toNat ∧ 0 < armed.evn.toNat - 1 := ⟨queueOk_scheduleOf rfl, by decide⟩

/-- A TICK step, an enabled SERVICE step and a command from sound blocks. -/
theorem witness_EveryStepKeepsTheBlockSound :
    (BlockSound Config.frameTicks served ∧ ∃ t, step (offering served .tick) = .next t) ∧
    (BlockSound Config.frameTicks pulseEnd ∧ ∃ t, step (offering pulseEnd .service) = .next t) ∧
    (BlockSound Config.frameTicks armed ∧ ∃ t, step (offering armed (.host 0x20000000#32)) = .next t) :=
  ⟨⟨served_sound, _, step_tick rfl rfl⟩, ⟨pulseEnd_sound, witness_ServiceFrame.2.2.2⟩,
    ⟨armed_sound, _, step_command rfl (i := .initServos) (by decide)⟩⟩

theorem sparesPins_of_event {b : Block} {e : Event} (h : ∀ w, e ≠ .host w) : (offering b e).SparesPins := by
  have hno : ∀ i, ¬ (offering b e).OffersCommand i := fun i ⟨w, hw, _⟩ => h w hw
  intro p m hpm
  rcases hpm with hpm | hpm | hpm <;> exact absurd hpm (hno _)

theorem witness_EveryStepKeepsPinsOnSchedule :
    (BlockSound Config.frameTicks served ∧ PulsesOk served ∧ (offering served .tick).SparesPins ∧
      (served.ocf = true → served.latency < 65535 - Config.frameTicks) ∧ ∃ t, step (offering served .tick) = .next t) ∧
    (BlockSound Config.frameTicks pulseEnd ∧ PulsesOk pulseEnd ∧ (offering pulseEnd .service).SparesPins ∧
      ∃ t, step (offering pulseEnd .service) = .next t) :=
  ⟨⟨served_sound, served_pulses, sparesPins_of_event (by simp), by simp [served], _, step_tick rfl rfl⟩,
    pulseEnd_sound, pulseEnd_pulses, sparesPins_of_event (by simp), witness_ServiceFrame.2.2.2⟩

/-- A command, and the SERVICE step at the pulse's end. -/
theorem witness_PulseLevelsAreExact :
    (BlockSound Config.frameTicks served ∧ PulsesOk served ∧ (offering served (.host 0x00000000#32)).SparesPins ∧
      ∃ t, step (offering served (.host 0x00000000#32)) = .next t ∧ t.block.run = true ∧ t.block.ocf = false ∧
        0 < t.block.evn.toNat - 1) ∧
    (BlockSound Config.frameTicks pulseEnd ∧ PulsesOk pulseEnd ∧ (offering pulseEnd .service).SparesPins ∧
      (offering pulseEnd .service).nextEvent ≠ .tick ∧
      ∃ t, step (offering pulseEnd .service) = .next t ∧ t.block.run = true ∧ t.block.ocf = false) := by
  obtain ⟨b', hb'⟩ := service_completes pulseEnd_ok rfl
  obtain ⟨-, -, -, -, hrun, -, -, -, -, hocf, -⟩ := service_frame hb'
  refine ⟨⟨served_sound, served_pulses, ?_, _, step_command rfl (i := .nop) (by decide), rfl, rfl, by decide⟩,
    pulseEnd_sound, pulseEnd_pulses, sparesPins_of_event (by simp), by decide, _, step_offered_service rfl rfl hb', hrun, hocf⟩
  have hnop : ∀ i, (offering served (.host 0x00000000#32)).OffersCommand i → i = .nop := by
    rintro i ⟨w, hw, hi⟩
    cases hw
    have hd : decode 0x00000000#32 = .ok .nop := by decide
    rw [hd] at hi
    cases hi
    rfl
  intro p m hpm
  rcases hpm with hpm | hpm | hpm <;> cases hnop _ hpm

theorem witness_DisarmBeforeTheWrapIsClean :
    (holding resting).Live ∧ BlockOk Config.frameTicks resting ∧ PulsesOk resting ∧ resting.town = .servo ∧
    resting.phase = .scheduled ∧ resting.evi.toNat = resting.evn.toNat - 1 :=
  ⟨rfl, resting_ok, resting_pulses, rfl, rfl, by decide⟩

theorem witness_ErrorsChangeNothing :
    ∃ t w, exec (.rdReg 9) (holding armed) = .next t ∧ t.response = some w ∧ statusOf w ≠ 0 :=
  ⟨_, _, exec_live (s := holding armed) rfl _, rfl, by decide⟩

theorem witness_OnlyInitServoWritesTheRegistry :
    (∃ t, step (offering armed .tick) = .next t) ∧
    (∀ idx port pin rest pw, ¬ (offering armed .tick).OffersCommand (.initServo idx port pin rest pw)) ∧
    armed.ch[(0 : Fin 6)].valid = true := by
  refine ⟨⟨_, step_tick rfl rfl⟩, ?_, by decide⟩
  rintro _ _ _ _ _ ⟨w, hw, -⟩
  cases hw

theorem witness_OnlyGieWrWritesGie :
    ∃ t, step (offering armed (.host 0x40000000#32)) = .next t ∧ t.block.gie ≠ armed.gie :=
  ⟨_, step_command rfl (i := .gieWr false) (by decide), by decide⟩

theorem witness_OverrunCounterOnlyRises :
    ∃ t, step (offering servedLate .service) = .next t ∧ t.block.ovr ≠ servedLate.ovr :=
  ⟨_, step_offered_service rfl rfl service_servedLate, by decide⟩

theorem witness_OnlyClaimWhileArmedFaults :
    ∃ t, step (offering armed (.host 0xC0000000#32)) = .next t ∧ t.block.fault = true :=
  ⟨_, step_command rfl (i := .extClaim) (by decide), rfl⟩

theorem witness_CounterChangesOnlyByTickAndArming :
    (∃ t, step (offering armed .tick) = .next t ∧ armed.run = true) ∧
    (∃ t, step (offering { Block.reset with ch := registryOf shortPulse } (.host 0x20000000#32)) = .next t ∧
      Block.reset.town ≠ .servo ∧ t.block.town = .servo) ∧
    (∃ t, step (offering armed (.host 0x00000000#32)) = .next t ∧ ¬(armed.town ≠ .servo ∧ t.block.town = .servo)) := by
  refine ⟨⟨_, step_tick rfl rfl, rfl⟩, ⟨_, step_command rfl (i := .initServos) (by decide), by decide, ?_⟩,
    ⟨_, step_command rfl (i := .nop) (by decide), by decide⟩⟩
  simp only [State.answer_block, replyOf, initServos, build_shortPulse]
  rfl

/-- A commit at the wrap, an arming, and the two writes of the shadow queue. -/
theorem witness_ScheduleChangesOnlyAtArmingOrWrap :
    (BlockOk Config.frameTicks wrapping ∧
      ∃ t, step (offering wrapping .service) = .next t ∧ t.block.evq ≠ wrapping.evq) ∧
    (∃ t, step (offering { Block.reset with ch := registryOf shortPulse } (.host 0x20000000#32)) = .next t ∧
      t.block.evn ≠ Block.reset.evn) ∧
    (BlockOk Config.frameTicks armed ∧
      ∃ t, step (offering armed (.host 0x20000000#32)) = .next t ∧ t.block.shn ≠ armed.shn) ∧
    (∃ t, step (offering armed (.host 0x10A00001#32)) = .next t ∧ t.block.shn ≠ armed.shn) := by
  refine ⟨⟨wrapping_ok, _, step_offered_service rfl rfl service_wrapping, ?_⟩,
    ⟨_, step_command rfl (i := .initServos) (by decide), ?_⟩,
    ⟨armed_ok, _, step_command rfl (i := .initServos) (by decide), ?_⟩,
    ⟨_, step_command rfl (i := .initServo 0 1 2 false 1) (by decide), ?_⟩⟩
  · intro h
    have h0 := congrArg (fun q => (entryAt q 0).pin) h
    exact absurd h0 (by decide)
  · simp only [State.answer_block, replyOf, initServos, build_shortPulse]
    decide
  · have hb : build Config.frameTicks armed.ch = .built (scheduleOf shortPulse) 2 := build_shortPulse
    have ht : armed.town = .servo := rfl
    simp only [State.answer_block, replyOf, initServos, ht, hb]
    decide
  · have hr : replyOf (.initServo 0 1 2 false 1) armed =
        register Config.frameTicks 0 shortPulse armed := by
      simp only [replyOf, initServo]
      rw [dif_pos (by decide), if_neg (by decide), if_neg (by decide)]
      rfl
    have ht : armed.town = .servo := rfl
    have hb := witness_InitServo_rebuilds.1
    rw [State.answer_block, hr, register, if_pos ht]
    have hb' : build Config.frameTicks (armed.ch.set (0 : Fin 6) shortPulse) = .built (scheduleOf shortPulse) 2 := hb
    rw [hb']
    decide

theorem witness_CriticalSectionHoldsTheSchedule :
    (∃ t, step (offering { armed with gie := false } .tick) = .next t) ∧ ({ armed with gie := false } : Block).gie = false ∧
    ¬ (offering { armed with gie := false } .tick).OffersCommand .initServos := by
  refine ⟨⟨_, step_tick rfl rfl⟩, rfl, ?_⟩
  rintro ⟨w, hw, -⟩
  cases hw

/-- A repeated GPIO_SET, and an INIT_SERVOS repeated after the arming. -/
theorem witness_RepeatedCommandsAreIdempotent :
    (∃ t u, exec (.gpioSet 1 3) (holding armed) = .next t ∧ exec (.gpioSet 1 3) t = .next u ∧
      ∀ p m, Instr.gpioSet 1 3 ≠ .gpioTgl p m) ∧
    (∃ t u, exec .initServos (holding { Block.reset with ch := registryOf shortPulse }) = .next t ∧
      exec .initServos t = .next u ∧ Block.reset.town = .free ∧ t.block.town = .servo) := by
  refine ⟨⟨_, _, exec_live (s := holding armed) rfl _, exec_live rfl _, by simp⟩, ?_⟩
  have hr : replyOf .initServos { Block.reset with ch := registryOf shortPulse } =
      done (({ Block.reset with ch := registryOf shortPulse } : Block).arm (scheduleOf shortPulse) 2) := by
    simp only [replyOf, initServos, build_shortPulse]
    rfl
  have h1 : exec .initServos (holding { Block.reset with ch := registryOf shortPulse }) =
      .next ((holding { Block.reset with ch := registryOf shortPulse }).answer
        (done (({ Block.reset with ch := registryOf shortPulse } : Block).arm (scheduleOf shortPulse) 2))) := by
    rw [← hr]
    exact exec_live (s := holding { Block.reset with ch := registryOf shortPulse }) rfl _
  exact ⟨_, _, h1, exec_live rfl _, rfl, rfl⟩

end Sys2Proof.Tests
end

section
/-! PROOFS. Reading the fields of an encoded command back, and the round trip `decode (encode i) = .ok i` (R83 to R87). -/

namespace Sys2Proof.Laws

/-! ### Fields of words put together from places (R83) -/

@[simp] theorem field_or (w v : Word) (lo len : Nat) : field (w ||| v) lo len = field w lo len ||| field v lo len := by
  unfold field
  ext i hi
  simp

/-- A field read where it was put is the value put there. -/
@[simp] theorem field_place_same {lo len : Nat} (h : lo + len ≤ 32) (v : BitVec len) : field (place 32 lo v) lo len = v :=
  BitVec.eq_of_getLsbD_eq fun j hj => by
    have hword : lo + j < 32 := by omega
    simp [hj, hword]

/-- A field read where another, disjoint one was put is 0. -/
@[simp] theorem field_place_disjoint {lo len lo' len' : Nat} (h : lo' + len' ≤ lo ∨ lo + len ≤ lo') (v : BitVec len') :
    field (place 32 lo' v) lo len = 0#len :=
  BitVec.eq_of_getLsbD_eq fun j hj => by
    rcases h with hbelow | habove
    · simp [BitVec.getLsbD_of_ge v (lo + j - lo') (by omega)]
    · have hlow : lo + j < lo' := by omega
      simp [hlow]

@[simp] theorem field_placeBit_disjoint {lo len lo' : Nat} (h : lo' + 1 ≤ lo ∨ lo + len ≤ lo') (v : Bool) :
    field (placeBit 32 lo' v) lo len = 0#len :=
  field_place_disjoint h _

/-! ### The row of an encoded command (R84) -/

/-- The opcode of a command, the `op` column of R84. -/
def commandOpcode : Instr → BitVec 4
  | .nop => 0x0
  | .initServo .. => 0x1
  | .initServos => 0x2
  | .disarm => 0x3
  | .gieWr _ => 0x4
  | .rdReg _ => 0x5
  | .rdCh _ => 0x6
  | .rdEv .. => 0x7
  | .rdPort _ => 0x8
  | .gpioSet .. => 0x9
  | .gpioClr .. => 0xA
  | .gpioTgl .. => 0xB
  | .extClaim => 0xC
  | .extRelease => 0xD

theorem opcodeOf_encode (i : Instr) : opcodeOf (encode i) = commandOpcode i := by
  cases i <;> simp [opcodeOf, encode, placeOp, commandOpcode]

/-- Every encoded command is covered by the row of its opcode. -/
theorem encoding_statement : ∀ i : Instr, Encoding.Statement i
  | .nop => Encoding.nop
  | .initServo idx port pin rest pw => Encoding.initServo idx port pin rest pw
  | .initServos => Encoding.initServos
  | .disarm => Encoding.disarm
  | .gieWr v => Encoding.gieWr v
  | .rdReg r => Encoding.rdReg r
  | .rdCh i => Encoding.rdCh i
  | .rdEv s k => Encoding.rdEv s k
  | .rdPort p => Encoding.rdPort p
  | .gpioSet p m => Encoding.gpioSet p m
  | .gpioClr p m => Encoding.gpioClr p m
  | .gpioTgl p m => Encoding.gpioTgl p m
  | .extClaim => Encoding.extClaim
  | .extRelease => Encoding.extRelease

/-- The row of a command's opcode reads back from the command's word every operand `encode` put there (R86, R87). -/
theorem command_encode {i : Instr} {r : OpcodeRow} (hr : opcodeRows[(commandOpcode i).toNat]? = some r) :
    r.command (encode i) = i := by
  cases i <;> obtain rfl := Option.some.inj hr <;> simp [initServoOf, encode, placeOp]

/-- The decoder undoes the encoder (R85): the row of the command's opcode covers its word and reads the command back. -/
@[simp] theorem decode_encode (i : Instr) : decode (encode i) = .ok i := by
  obtain ⟨r, hr, hc⟩ := encoding_statement i
  rw [decode_of_row hr hc, command_encode (opcodeOf_encode i ▸ hr)]

end Sys2Proof.Laws
end

section
/-! PROOFS. The offers of the outside world and the step that takes a command word (R11, R69, R85). -/

namespace Sys2Proof.Laws

open Sys2Proof.Machine

/-! ### Taking an offer -/

theorem dropEvent_cons {s : State} {e : Event} {es : List Event} (h : s.inputs = e :: es) :
    s.dropEvent = { s with inputs := es } := by
  simp [State.dropEvent, h]

theorem dropEvent_nil {s : State} (h : s.inputs = []) : s.dropEvent = { s with freeIndex := s.freeIndex + 1 } := by
  simp [State.dropEvent, h]

/-- A HOST step runs the command its word decodes to. -/
theorem step_of_decode {s : State} {w : Word} {i : Instr} (hs : s.nextEvent = .host w) (hd : decode w = .ok i) :
    step s = exec i s.dropEvent := by
  simp [step, hs, commandStep, hd]

/-! ### A fetched word -/

/-- A word given as its own 32-bit number is that word. -/
@[simp] theorem tableWord_toNat (w : Word) : tableWord 32 w.toNat = w := by
  simp [tableWord, Nat.mod_eq_of_lt w.isLt]

@[simp] theorem withFetchWord_nextEvent (s : State) (n w : Nat) :
    (s.withFetchWord n w).nextEvent = .host (tableWord n w) := rfl

@[simp] theorem withFetchWord_dropEvent (s : State) (n w : Nat) : (s.withFetchWord n w).dropEvent = s := rfl

/-- The step after a command's word is fetched is that command, on the state before the fetch. -/
theorem step_withFetchWord_encode (s : State) (i : Instr) : step (s.withFetchWord 32 (encode i).toNat) = exec i s :=
  step_of_decode (withFetchWord_nextEvent s _ _) (by rw [tableWord_toNat, decode_encode])

/-- Settles O7: the step takes the first offer or the next free one, and runs a command word through the decoder; the fetched
word of a command decodes to it by the round trip. -/
theorem stepRunsDecodedCommand : Obligations.StepRunsDecodedCommand := by
  unfold Obligations.StepRunsDecodedCommand
  refine ⟨fun s w i hs hd => ?_, fun s e es h => ?_, fun s h => ?_, fun s i => ?_⟩
  · exact step_of_decode hs hd
  · exact ⟨State.nextEvent_cons s e es h, dropEvent_cons h⟩
  · exact ⟨State.nextEvent_nil s h, dropEvent_nil h⟩
  · exact step_withFetchWord_encode s i

end Sys2Proof.Laws
end

section
/-! PROOFS. What one step of the machine can do to the block, said once (R11, R69), and the rules on which step writes which
element of the state that follow from it. -/

namespace Sys2Proof.Laws

open Sys2Proof.Machine

/-! ### The step of a faulted block (R46) -/

@[simp] theorem exec_of_faulted {s : State} (h : s.block.fault = true) (i : Instr) : exec i s = .fault .timerMisused := by
  rw [exec_eq, hostStep, unlessFaulted_of_faulted h]

theorem step_of_faulted {s : State} (h : s.block.fault = true) : step s = .fault .timerMisused := by
  have hdrop : s.dropEvent.block.fault = true := by rw [State.dropEvent_block, h]
  unfold step
  cases s.nextEvent with
  | host w =>
    cases hd : decode w with
    | ok i => simp only [commandStep, hd, exec_of_faulted hdrop]
    | error e => simp only [commandStep, hd, illegalStep, hostStep, unlessFaulted_of_faulted hdrop]
  | tick => exact unlessFaulted_of_faulted hdrop
  | service => exact unlessFaulted_of_faulted hdrop

/-- Settles O10: every command is a HOST step, and all three agents' steps stop at a faulted block. -/
theorem faultedBlockStops : Obligations.FaultedBlockStops := by
  unfold Obligations.FaultedBlockStops
  exact fun s h => ⟨exec_of_faulted h, step_of_faulted h⟩

/-! ### The block after a step -/

/-- Everything a step from `s` can leave of the block: one constructor per write, with the offer that makes it and the checks it
has passed. `blockStep_of_step` ties it to `step`. -/
inductive BlockStep (s : State) : Block → Prop
  /-- An error, a read, a command with nothing to do, or the offer of a step that is not enabled. -/
  | unchanged (hidle : ¬(s.nextEvent = .tick ∧ s.block.run = true)) : BlockStep s s.block
  /-- An enabled TICK (R150). -/
  | tick (he : s.nextEvent = .tick) (hrun : s.block.run = true) : BlockStep s (tick s.block)
  /-- An enabled SERVICE (R154, R155). -/
  | service {b : Block} (he : s.nextEvent = .service) (henabled : s.block.interruptEnabled = true)
      (hb : service Config.frameTicks s.block = some b) : BlockStep s b
  /-- INIT_SERVO while not armed (R110). -/
  | register {idx : BitVec 3} {port : PortId} {pin : PinId} {rest : Level} {pw : Tick}
      (ho : s.OffersCommand (.initServo idx port pin rest pw)) (hidx : idx.toNat < 6) (hpw : ¬ sext16 pw ≤ 0)
      (hapart : ¬ Collides s.block.ch ⟨idx.toNat, hidx⟩ port pin) (ht : s.block.town ≠ .servo) :
      BlockStep s (s.block.setChannel ⟨idx.toNat, hidx⟩ ⟨true, port, pin, rest, pw⟩)
  /-- INIT_SERVO while armed, with its rebuild (R110, R114). -/
  | reregister {idx : BitVec 3} {port : PortId} {pin : PinId} {rest : Level} {pw : Tick} {q : Vector Entry 7} {n : BitVec 3}
      (ho : s.OffersCommand (.initServo idx port pin rest pw)) (hidx : idx.toNat < 6) (hpw : ¬ sext16 pw ≤ 0)
      (hapart : ¬ Collides s.block.ch ⟨idx.toNat, hidx⟩ port pin) (ht : s.block.town = .servo)
      (hb : build Config.frameTicks (s.block.ch.set idx.toNat ⟨true, port, pin, rest, pw⟩ hidx) = .built q n) :
      BlockStep s ((s.block.setShadow q n).setChannel ⟨idx.toNat, hidx⟩ ⟨true, port, pin, rest, pw⟩)
  /-- INIT_SERVOS from FREE (R180). -/
  | arm {q : Vector Entry 7} {n : BitVec 3} (ho : s.OffersCommand .initServos) (ht : s.block.town = .free)
      (hb : build Config.frameTicks s.block.ch = .built q n) : BlockStep s (s.block.arm q n)
  /-- INIT_SERVOS while armed (R182). -/
  | rebuild {q : Vector Entry 7} {n : BitVec 3} (ho : s.OffersCommand .initServos) (ht : s.block.town = .servo)
      (hb : build Config.frameTicks s.block.ch = .built q n) : BlockStep s (s.block.setShadow q n)
  /-- DISARM while armed (R184). -/
  | disarm (ho : s.OffersCommand .disarm) (ht : s.block.town = .servo) : BlockStep s s.block.disarm
  /-- GIE_WR (R186). -/
  | gieWr {v : Bool} (ho : s.OffersCommand (.gieWr v)) : BlockStep s { s.block with gie := v }
  /-- GPIO_SET, GPIO_CLR and GPIO_TGL (R201 to R203). -/
  | gpio {p : PortId} {m v : PortBits}
      (ho : s.OffersCommand (.gpioSet p m) ∨ s.OffersCommand (.gpioClr p m) ∨ s.OffersCommand (.gpioTgl p m)) :
      BlockStep s (s.block.setPort p v)
  /-- EXT_CLAIM of a free timer (R206). -/
  | claim (ho : s.OffersCommand .extClaim) (ht : s.block.town = .free) : BlockStep s { s.block with town := .other }
  /-- EXT_CLAIM while armed (R206). -/
  | misuse (ho : s.OffersCommand .extClaim) (ht : s.block.town = .servo) : BlockStep s { s.block with fault := true }
  /-- EXT_RELEASE of another subsystem's timer (R207). -/
  | release (ho : s.OffersCommand .extRelease) (ht : s.block.town = .other) : BlockStep s { s.block with town := .free }

theorem nextEvent_ne_tick_of_offersCommand {s : State} {i : Instr} (h : s.OffersCommand i) : s.nextEvent ≠ .tick := by
  obtain ⟨w, hw, -⟩ := h
  simp [hw]

theorem BlockStep.of_offersCommand_unchanged {s : State} {i : Instr} (h : s.OffersCommand i) : BlockStep s s.block :=
  .unchanged fun hc => nextEvent_ne_tick_of_offersCommand h hc.1

theorem blockStep_of_initServo {s : State} {idx : BitVec 3} {port : PortId} {pin : PinId} {rest : Level} {pw : Tick}
    (ho : s.OffersCommand (.initServo idx port pin rest pw)) :
    BlockStep s (replyOf (.initServo idx port pin rest pw) s.block).block := by
  simp only [replyOf]
  rcases initServo_cases Config.frameTicks idx port pin rest pw s.block with
    ⟨st, -, hr⟩ | ⟨hidx, hpw, hapart, ⟨ht, hr⟩ | ⟨q, n, ht, hb, hr⟩⟩ <;> rw [hr]
  · exact .of_offersCommand_unchanged ho
  · exact .register ho hidx hpw hapart ht
  · exact .reregister ho hidx hpw hapart ht hb

theorem blockStep_of_command {s : State} {i : Instr} (ho : s.OffersCommand i) : BlockStep s (replyOf i s.block).block := by
  rcases replyOf_cases i s.block with
    ⟨st, -, hr⟩ | ⟨d, hr⟩ | ⟨_, _, _, _, _, _, _, rfl, -⟩ | ⟨_, _, _, _, _, _, _, _, _, rfl, -⟩ | ⟨q, n, rfl, ht, hb, hr⟩ |
    ⟨q, n, rfl, ht, hb, hr⟩ | ⟨rfl, ht, hr⟩ | ⟨v, rfl, hr⟩ | ⟨p, m, v, hi, hr⟩ | ⟨rfl, ht, hr⟩ | ⟨rfl, ht, hr⟩ | ⟨rfl, ht, hr⟩
  · rw [hr]; exact .of_offersCommand_unchanged ho
  · rw [hr]; exact .of_offersCommand_unchanged ho
  · exact blockStep_of_initServo ho
  · exact blockStep_of_initServo ho
  · rw [hr]; exact .arm ho ht hb
  · rw [hr]; exact .rebuild ho ht hb
  · rw [hr]; exact .disarm ho ht
  · rw [hr]; exact .gieWr ho
  · rw [hr]; exact .gpio (hi.imp (· ▸ ho) (Or.imp (· ▸ ho) (· ▸ ho)))
  · rw [hr]; exact .claim ho ht
  · rw [hr]; exact .misuse ho ht
  · rw [hr]; exact .release ho ht

/-- A step that ends in a next state starts from an unfaulted block and does one of the things of `BlockStep` to it. -/
theorem blockStep_of_step {s t : State} (h : step s = .next t) : s.block.fault = false ∧ BlockStep s t.block := by
  obtain ⟨hf, ⟨w, i, he, hd, rfl⟩ | ⟨w, e, he, -, rfl⟩ | ⟨he, rfl⟩ | ⟨he, hi, b, hb, rfl⟩ | ⟨he, -, rfl⟩⟩ := step_cases h
  all_goals refine ⟨hf, ?_⟩
  · exact blockStep_of_command ⟨w, he, hd⟩
  · exact .unchanged (by simp [he])
  · cases hrun : s.block.run
    · simpa using .unchanged (by simp [hrun])
    · simpa using .tick he hrun
  · exact .service he hi hb
  · exact .unchanged (by simp [he])

/-! ### Which step writes which element -/

theorem BlockStep.town_transfer {s : State} {b : Block} (h : BlockStep s b) (hne : b.town ≠ s.block.town) :
    (s.block.town = .free ∧ b.town = .servo ∧ s.OffersCommand .initServos) ∨
    (s.block.town = .servo ∧ b.town = .free ∧ s.OffersCommand .disarm) ∨
    (s.block.town = .free ∧ b.town = .other ∧ s.OffersCommand .extClaim) ∨
    (s.block.town = .other ∧ b.town = .free ∧ s.OffersCommand .extRelease) := by
  cases h with
  | arm ho ht _ => exact .inl ⟨ht, rfl, ho⟩
  | disarm ho ht => exact .inr (.inl ⟨ht, rfl, ho⟩)
  | claim ho ht => exact .inr (.inr (.inl ⟨ht, rfl, ho⟩))
  | release ho ht => exact .inr (.inr (.inr ⟨ht, rfl, ho⟩))
  | service _ _ hb =>
    obtain ⟨-, -, -, -, -, -, -, htown, -⟩ := service_frame hb
    exact absurd htown hne
  | _ => exact absurd rfl hne

/-- Settles O28: `BlockStep.town_transfer` of the block after the step. -/
theorem ownershipTransfersOnlyByCommand : Obligations.OwnershipTransfersOnlyByCommand := by
  unfold Obligations.OwnershipTransfersOnlyByCommand
  exact fun s t h => (blockStep_of_step h).2.town_transfer

/-- A slot that is valid stays valid when a valid channel is written to some slot (R22). -/
theorem valid_set {reg : Registry} {i j : Fin 6} {c : Channel} (hc : c.valid = true) (hi : reg[i].valid = true) :
    (reg.set j c)[i].valid = true := by
  by_cases hij : j.val = i.val
  · simp [hij, hc]
  · simpa [Vector.getElem_set_ne _ _ hij] using hi

theorem BlockStep.registry {s : State} {b : Block} (h : BlockStep s b) :
    ((∀ idx port pin rest pw, ¬ s.OffersCommand (.initServo idx port pin rest pw)) → b.ch = s.block.ch) ∧
    ∀ i : Fin 6, s.block.ch[i].valid = true → b.ch[i].valid = true := by
  cases h with
  | register ho _ _ _ _ => exact ⟨fun hno => absurd ho (hno _ _ _ _ _), fun i hi => valid_set rfl hi⟩
  | reregister ho _ _ _ _ _ => exact ⟨fun hno => absurd ho (hno _ _ _ _ _), fun i hi => valid_set rfl hi⟩
  | service _ _ hb =>
    obtain ⟨hch, -⟩ := service_frame hb
    exact ⟨fun _ => hch, fun i hi => by rw [hch]; exact hi⟩
  | _ => exact ⟨fun _ => rfl, fun _ hi => hi⟩

/-- Settles O50: `BlockStep.registry` of the block after the step. -/
theorem onlyInitServoWritesTheRegistry : Obligations.OnlyInitServoWritesTheRegistry := by
  unfold Obligations.OnlyInitServoWritesTheRegistry
  exact fun s t h => (blockStep_of_step h).2.registry

theorem BlockStep.gie_write {s : State} {b : Block} (h : BlockStep s b) (hne : b.gie ≠ s.block.gie) :
    s.OffersCommand (.gieWr b.gie) := by
  cases h with
  | gieWr ho => exact ho
  | service _ _ hb =>
    obtain ⟨-, -, -, -, -, -, hgie, -⟩ := service_frame hb
    exact absurd hgie hne
  | _ => exact absurd rfl hne

/-- Settles O51: `BlockStep.gie_write` of the block after the step. -/
theorem onlyGieWrWritesGie : Obligations.OnlyGieWrWritesGie := by
  unfold Obligations.OnlyGieWrWritesGie
  exact fun s t h => (blockStep_of_step h).2.gie_write

/-- OVR counts one step at most, and only below its top (R45, R158). -/
theorem toNat_ovrAfter_of_ne {ovr : BitVec 16} {missed : Bool} (h : ovrAfter ovr missed ≠ ovr) :
    (ovrAfter ovr missed).toNat = ovr.toNat + 1 := by
  cases missed
  · exact absurd rfl h
  · have hsat : (ovrAfter ovr true).toNat = min (ovr.toNat + 1) 65535 := by
      simp only [ovrAfter, if_true, satSucc16, BitVec.toNat_ofNat]
      omega
    have hne : (ovrAfter ovr true).toNat ≠ ovr.toNat := fun hc => h (BitVec.eq_of_toNat_eq hc)
    have := ovr.isLt
    omega

theorem BlockStep.ovr_rise {s : State} {b : Block} (h : BlockStep s b) (hne : b.ovr ≠ s.block.ovr) :
    s.nextEvent = .service ∧ s.block.interruptEnabled = true ∧ b.ovr.toNat = s.block.ovr.toNat + 1 := by
  cases h with
  | service he henabled hb =>
    obtain ⟨-, -, -, -, -, -, -, -, -, -, missed, hovr⟩ := service_frame hb
    rw [hovr] at hne ⊢
    exact ⟨he, henabled, toNat_ovrAfter_of_ne hne⟩
  | _ => exact absurd rfl hne

/-- Settles O52: `BlockStep.ovr_rise` of the block after the step. -/
theorem overrunCounterOnlyRises : Obligations.OverrunCounterOnlyRises := by
  unfold Obligations.OverrunCounterOnlyRises
  exact fun s t h => (blockStep_of_step h).2.ovr_rise

theorem BlockStep.fault_rise {s : State} {b : Block} (h : BlockStep s b) (hlive : s.Live) (hfault : b.fault = true) :
    s.OffersCommand .extClaim ∧ s.block.town = .servo := by
  have hkept : b.fault ≠ s.block.fault := by simp [hfault, hlive]
  cases h with
  | misuse ho ht => exact ⟨ho, ht⟩
  | service _ _ hb =>
    obtain ⟨-, -, -, -, -, -, -, -, hsame, -⟩ := service_frame hb
    exact absurd hsame hkept
  | _ => exact absurd rfl hkept

/-- Settles O53: `BlockStep.fault_rise`, from the unfaulted block every step that ends in a next state starts from. -/
theorem onlyClaimWhileArmedFaults : Obligations.OnlyClaimWhileArmedFaults := by
  unfold Obligations.OnlyClaimWhileArmedFaults
  intro s t h hfault
  obtain ⟨hlive, hstep⟩ := blockStep_of_step h
  exact hstep.fault_rise hlive hfault

/-- A step that is no enabled TICK leaves CNT alone, but for the arming, which zeroes it (R36). -/
theorem BlockStep.cnt_of_not_tick {s : State} {b : Block} (h : BlockStep s b) (hno : ¬(s.nextEvent = .tick ∧ s.block.run = true)) :
    (s.block.town ≠ .servo ∧ b.town = .servo ∧ b.cnt = 0) ∨ (¬(s.block.town ≠ .servo ∧ b.town = .servo) ∧ b.cnt = s.block.cnt) := by
  cases h with
  | tick he hrun => exact absurd ⟨he, hrun⟩ hno
  | arm _ ht _ => exact .inl ⟨by simp [ht], rfl, rfl⟩
  | service _ _ hb =>
    obtain ⟨-, -, -, hcnt, -, -, -, htown, -⟩ := service_frame hb
    exact .inr ⟨fun ⟨hne, hs⟩ => hne (htown ▸ hs), hcnt⟩
  | disarm _ _ => exact .inr ⟨by simp, rfl⟩
  | claim _ _ => exact .inr ⟨by simp, rfl⟩
  | release _ _ => exact .inr ⟨by simp, rfl⟩
  | _ => exact .inr ⟨fun ⟨hne, hs⟩ => hne hs, rfl⟩

theorem BlockStep.eq_tick {s : State} {b : Block} (h : BlockStep s b) (he : s.nextEvent = .tick) (hrun : s.block.run = true) :
    b = Machine.tick s.block := by
  have hcommand : ∀ {i}, ¬ s.OffersCommand i := fun ho => nextEvent_ne_tick_of_offersCommand ho he
  cases h with
  | tick _ _ => rfl
  | unchanged hidle => exact absurd ⟨he, hrun⟩ hidle
  | service hs _ _ => simp [he] at hs
  | gpio ho => rcases ho with ho | ho | ho <;> exact absurd ho hcommand
  | _ => exact absurd ‹s.OffersCommand _› hcommand

/-- Settles O54: an enabled TICK is the operation `tick`; every other step is `BlockStep.cnt_of_not_tick`. -/
theorem counterChangesOnlyByTickAndArming : Obligations.CounterChangesOnlyByTickAndArming := by
  unfold Obligations.CounterChangesOnlyByTickAndArming
  intro s t h
  have hstep := (blockStep_of_step h).2
  by_cases htick : s.nextEvent = .tick ∧ s.block.run = true
  · have hb := hstep.eq_tick htick.1 htick.2
    refine ⟨fun _ => ?_, fun harm => ?_, fun hno => absurd htick hno⟩
    · simp [hb, BitVec.toNat_add]
    · exact absurd (by simpa [hb] using harm.2) harm.1
  · rcases hstep.cnt_of_not_tick htick with ⟨hfree, harmed, hcnt⟩ | ⟨hno, hcnt⟩
    · exact ⟨fun hc => absurd hc htick, fun _ => hcnt, fun _ hc => absurd ⟨hfree, harmed⟩ hc⟩
    · exact ⟨fun hc => absurd hc htick, fun hc => absurd hc hno, fun _ _ => hcnt⟩

end Sys2Proof.Laws
end

section
/-! PROOFS. A built queue meets R30; every step keeps the block sound (R23, R25, R30, R34, R35, R37, R47); the queues change only
as R27 and R72 say. -/

namespace Sys2Proof.Laws

open Sys2Proof.Machine

/-! ### Built queues (R30) -/

theorem toNat_tick16 {n : Nat} (h : n ≤ 65535) : (tick16 n).toNat = n := by
  simp only [tick16, BitVec.toNat_ofNat]
  omega

/-- Along S the slots differ and their widths do not fall (R133). -/
theorem sortedSlots_ordered (reg : Registry) {j k : Nat} (hjk : j < k) (hk : k < (sortedSlots reg).length) :
    (sortedSlots reg)[j] ≠ (sortedSlots reg)[k] ∧ widthOf reg (sortedSlots reg)[j] ≤ widthOf reg (sortedSlots reg)[k] := by
  have hbefore := comesBefore_iff.1 (List.pairwise_iff_getElem.1 (sortedSlots_pairwise reg) j k (by omega) hk hjk)
  refine ⟨fun heq => ?_, by omega⟩
  rw [heq] at hbefore
  omega

theorem queueOk_of_build {frame : Nat} {reg : Registry} {q : Vector Entry 7} {n : BitVec 3} (hframe : frame ≤ 65535)
    (hreg : RegistryOk reg) (hb : build frame reg = .built q n) : QueueOk frame q n.toNat := by
  obtain ⟨hne, -, hlast, -, -⟩ := build_eq_built_iff.1 hb
  have hpos := List.length_pos_iff.2 hne
  have hle := length_sortedSlots_le reg
  have hvalid : ∀ k (hk : k < (sortedSlots reg).length), reg[(sortedSlots reg)[k]].valid = true :=
    fun k hk => mem_sortedSlots.1 (List.getElem_mem hk)
  rw [built_length hb]
  constructor
  case two_le => omega
  case le_seven => omega
  case marker_wrap => rw [Nat.add_sub_cancel, built_marker hb]; rfl
  case marker_tick => rw [Nat.add_sub_cancel, built_marker hb]; exact toNat_tick16 hframe
  case rest_wrap => intro k hk; rw [built_rest hb k hk]; rfl
  case tick_pos => intro k hk; rw [built_rest hb k hk]; exact hreg.width_pos _ (hvalid k hk)
  case tick_below =>
    intro k hk
    rw [built_rest hb k hk]
    exact lt_of_le_of_lt (width_le_lastWidth (List.getElem_mem hk)) hlast
  case tick_mono =>
    intro j k hjk hk
    rcases Nat.eq_or_lt_of_le hjk with rfl | hlt
    · exact le_rfl
    · rw [built_rest hb j (by omega), built_rest hb k hk]
      exact (sortedSlots_ordered reg hlt hk).2
  case pins_apart =>
    intro j k hjk hk
    rw [built_rest hb j (by omega), built_rest hb k hk]
    exact hreg.pins_apart _ _ (sortedSlots_ordered reg hjk hk).1 (hvalid j (by omega)) (hvalid k hk)

/-- Settles O22: `queueOk_of_build`. -/
theorem builtQueueIsSound : Obligations.BuiltQueueIsSound := by
  unfold Obligations.BuiltQueueIsSound
  exact fun _ _ _ _ => queueOk_of_build

/-! ### The registry (R23, R25) -/

theorem width_of_sext16_pos {pw : Tick} (h : ¬ sext16 pw ≤ 0) : 1 ≤ pw.toNat ∧ pw.toNat ≤ 32767 := by
  have := pw.isLt
  simp only [sext16, BitVec.toInt] at h
  split at h <;> omega

/-- A registry stays sound when a slot gets a width 1..32767 and a pin no other valid slot has (R110). -/
theorem registryOk_set {reg : Registry} {i : Fin 6} {c : Channel} (h : RegistryOk reg)
    (hpw : ¬ sext16 c.pw ≤ 0) (hapart : ¬ Collides reg i c.port c.pin) : RegistryOk (reg.set i c) := by
  have hsame : (reg.set i c)[i] = c := by simp
  have hother : ∀ j : Fin 6, j ≠ i → (reg.set i c)[j] = reg[j] := fun j hj =>
    Vector.getElem_set_ne _ _ fun hv => hj (Fin.ext hv.symm)
  obtain ⟨hpos, hle⟩ := width_of_sext16_pos hpw
  have hfree : ∀ j : Fin 6, j ≠ i → reg[j].valid = true → ¬(reg[j].port = c.port ∧ reg[j].pin = c.pin) :=
    fun j hj hv hc => hapart ⟨j, hj, hv, hc⟩
  constructor
  case width_pos =>
    intro j hv
    by_cases hj : j = i
    · rw [hj, hsame]; exact hpos
    · rw [hother j hj] at hv ⊢; exact h.width_pos j hv
  case width_le =>
    intro j hv
    by_cases hj : j = i
    · rw [hj, hsame]; exact hle
    · rw [hother j hj] at hv ⊢; exact h.width_le j hv
  case pins_apart =>
    intro j k hjk hvj hvk
    by_cases hj : j = i
    · have hk : k ≠ i := fun hk => hjk (hj.trans hk.symm)
      rw [hother k hk] at hvk ⊢
      rw [hj, hsame]
      exact fun hc => hfree k hk hvk ⟨hc.1.symm, hc.2.symm⟩
    · rw [hother j hj] at hvj ⊢
      by_cases hk : k = i
      · rw [hk, hsame]; exact hfree j hj hvj
      · rw [hother k hk] at hvk ⊢; exact h.pins_apart j k hjk hvj hvk

/-! ### Every write keeps the block's data sound -/

/-- A built queue goes into the shadow queue of an armed block (R32, R33, R182). -/
theorem blockOk_setShadow {frame : Nat} {b : Block} {q : Vector Entry 7} {n : BitVec 3} (h : BlockOk frame b)
    (ht : b.town = .servo) (hq : QueueOk frame q n.toNat) : BlockOk frame (b.setShadow q n) :=
  { h with
    shadow := fun _ => hq
    pend_run := fun _ => by simp [h.run_town, ht]
    pend_shn := fun _ => hq.two_le }

theorem blockOk_setChannel {frame : Nat} {b : Block} {i : Fin 6} {c : Channel} (h : BlockOk frame b)
    (hpw : ¬ sext16 c.pw ≤ 0) (hapart : ¬ Collides b.ch i c.port c.pin) : BlockOk frame (b.setChannel i c) :=
  { h with registry := registryOk_set h.registry hpw hapart }

theorem blockOk_arm {frame : Nat} {b : Block} {q : Vector Entry 7} {n : BitVec 3} (h : BlockOk frame b)
    (hq : QueueOk frame q n.toNat) : BlockOk frame (b.arm q n) where
  registry := h.registry
  active _ := hq
  shadow := h.shadow
  run_ocie := rfl
  run_town := rfl
  ocf_run _ := rfl
  pend_run _ := rfl
  run_evn _ := hq.two_le
  run_evi _ := Nat.zero_le _
  pend_shn hp := by simp at hp

theorem blockOk_disarm {frame : Nat} {b : Block} (h : BlockOk frame b) : BlockOk frame b.disarm where
  registry := h.registry
  active := h.active
  shadow := h.shadow
  run_ocie := rfl
  run_town := rfl
  ocf_run hc := by simp at hc
  pend_run hc := by simp at hc
  run_evn hc := by simp at hc
  run_evi hc := by simp at hc
  pend_shn hc := by simp at hc

/-- The owner may change between FREE and OTHER while the block is not armed (R206, R207). -/
theorem blockOk_town {frame : Nat} {b : Block} {o : Owner} (h : BlockOk frame b) (ht : b.town ≠ .servo) (ho : o ≠ .servo) :
    BlockOk frame { b with town := o } :=
  { h with run_town := by simp [h.run_town, ht, ho] }

/-- A SERVICE step of an armed, sound block ends its loop in a sound sweep that waits for a future entry (R155, R159). -/
theorem service_sound {frame : Nat} {b b' : Block} (hframe : 1 ≤ frame) (h : BlockOk frame b) (hrun : b.run = true)
    (hb : service frame b = some b') :
    ∃ w, b' = finishService w ∧ SweepOk frame w ∧ w.now < (w.block.awaited.tick.toNat : Int) := by
  obtain ⟨w, hw, hsweep, hahead⟩ := serviceLoop_sound hframe h hrun
  rw [service_of_loop hw] at hb
  exact ⟨w, (Option.some.inj hb).symm, hsweep, hahead⟩

theorem blockOk_service {frame : Nat} {b b' : Block} (hframe : 1 ≤ frame) (h : BlockOk frame b) (hrun : b.run = true)
    (hb : service frame b = some b') : BlockOk frame b' := by
  obtain ⟨hch, hshq, hshn, -, hrun', hocie, -, htown, -, hocf, -⟩ := service_frame hb
  obtain ⟨w, rfl, hsweep, -⟩ := service_sound hframe h hrun hb
  exact {
    registry := hch ▸ h.registry
    active := fun _ => hsweep.queue
    shadow := by rw [hshq, hshn]; exact h.shadow
    run_ocie := by rw [hrun', hocie]; exact h.run_ocie
    run_town := by rw [hrun', htown]; exact h.run_town
    ocf_run := fun hc => absurd (hocf.symm.trans hc) Bool.false_ne_true
    pend_run := fun _ => hrun'.trans hrun
    run_evn := fun _ => hsweep.queue.two_le
    run_evi := fun _ => hsweep.evi_le
    pend_shn := fun hp => (hsweep.shadow hp).two_le }

theorem one_le_frameTicks : 1 ≤ Config.frameTicks := Nat.le_of_succ_le Config.two_le_frameTicks

theorem blockOk_step {s : State} {b : Block} (h : BlockOk Config.frameTicks s.block) (hstep : BlockStep s b) :
    BlockOk Config.frameTicks b := by
  have hbuilt := fun {reg q n} => queueOk_of_build (reg := reg) (q := q) (n := n) Config.frameTicks_le
  cases hstep with
  | unchanged _ => exact h
  | tick _ hrun => exact { h with ocf_run := fun _ => hrun }
  | service _ henabled hb => exact blockOk_service one_le_frameTicks h (run_of_enabled h henabled) hb
  | register _ _ hpw hapart _ => exact blockOk_setChannel h hpw hapart
  | reregister _ hidx hpw hapart ht hb =>
    refine blockOk_setChannel (blockOk_setShadow h ht (hbuilt ?_ hb)) hpw hapart
    exact registryOk_set (i := ⟨_, hidx⟩) h.registry hpw hapart
  | arm _ _ hb => exact blockOk_arm h (hbuilt h.registry hb)
  | rebuild _ ht hb => exact blockOk_setShadow h ht (hbuilt h.registry hb)
  | disarm _ _ => exact blockOk_disarm h
  | gieWr _ => exact { h with }
  | gpio _ => exact { h with }
  | claim _ ht => exact blockOk_town h (by simp [ht]) (by decide)
  | misuse _ _ => exact { h with }
  | release _ ht => exact blockOk_town h (by simp [ht]) (by decide)

/-! ### Every write keeps the sequencer between its steps -/

/-- A frame tick below the offset the compare is programmed for stays below it at a TICK that does not match (R37, R150). -/
theorem now_tick_lt {b : Block} (hlt : b.now.toNat < b.armedFor.toNat) (hno : b.cnt + 1 ≠ b.ocr) :
    (tick b).now.toNat < b.armedFor.toNat := by
  have hsucc : (tick b).now = b.now + 1 := by
    simp only [Block.now, tick_cnt, tick_fbase]
    ring
  have hnat : (tick b).now.toNat = (b.now.toNat + 1) % 65536 := by simp [hsucc, BitVec.toNat_add]
  have hne : (tick b).now.toNat ≠ b.armedFor.toNat := fun hc =>
    hno (by simpa [Block.now, Block.armedFor] using BitVec.eq_of_toNat_eq hc)
  have := b.armedFor.isLt
  omega

theorem sequencerOk_tick {b : Block} (h : SequencerOk b) : SequencerOk (tick b) where
  first hrun hphase := by
    obtain ⟨hocf, hevi, hocr⟩ := h.first hrun hphase
    exact ⟨by simp [ocfAfterTick, hocf], hevi, hocr⟩
  aimed := h.aimed
  ahead hrun hocf := by
    simp only [tick_ocf, ocfAfterTick, Bool.or_eq_false_iff, beq_eq_false_iff_ne] at hocf
    obtain ⟨hocf, hno⟩ := hocf
    have hphase : b.phase = .scheduled := by
      cases hp : b.phase with
      | active => simp [(h.first hrun hp).1] at hocf
      | scheduled => rfl
    have haimed := h.aimed hrun hphase
    have hahead := h.ahead hrun hocf
    rw [← haimed] at hahead
    exact haimed ▸ now_tick_lt hahead hno

theorem sequencerOk_arm (b : Block) (q : Vector Entry 7) (n : BitVec 3) : SequencerOk (b.arm q n) where
  first _ _ := ⟨rfl, rfl, rfl⟩
  aimed _ hphase := by simp at hphase
  ahead _ hocf := by simp at hocf

theorem sequencerOk_disarm (b : Block) : SequencerOk b.disarm where
  first hrun := by simp at hrun
  aimed hrun := by simp at hrun
  ahead hrun := by simp at hrun

theorem sequencerOk_service {frame : Nat} {b b' : Block} (hframe : 1 ≤ frame) (h : BlockOk frame b) (hrun : b.run = true)
    (hb : service frame b = some b') : SequencerOk b' := by
  obtain ⟨w, rfl, hsweep, hahead⟩ := service_sound hframe h hrun hb
  constructor
  case first => intro _ hphase; simp [hsweep.phase] at hphase
  case aimed => intro _ _; simp [Block.armedFor, Block.awaited]
  case ahead =>
    intro _ _
    have hnow : (finishService w).now = w.block.now := rfl
    have hawaited : (finishService w).awaited = w.block.awaited := rfl
    have := hsweep.now_eq
    rw [hnow, hawaited]
    omega

theorem sequencerOk_step {s : State} {b : Block} (h : BlockSound Config.frameTicks s.block) (hstep : BlockStep s b) :
    SequencerOk b := by
  cases hstep with
  | tick _ _ => exact sequencerOk_tick h.sequencer
  | service _ henabled hb => exact sequencerOk_service one_le_frameTicks h.data (run_of_enabled h.data henabled) hb
  | arm _ _ _ => exact sequencerOk_arm _ _ _
  | disarm _ _ => exact sequencerOk_disarm _
  | _ => exact { h.sequencer with }

/-- Settles O44: every write of `BlockStep` keeps the data (`blockOk_step`) and the sequencer (`sequencerOk_step`). -/
theorem everyStepKeepsTheBlockSound : Obligations.EveryStepKeepsTheBlockSound := by
  unfold Obligations.EveryStepKeepsTheBlockSound
  intro s t h hs
  obtain ⟨-, hstep⟩ := blockStep_of_step hs
  exact ⟨blockOk_step h.data hstep, sequencerOk_step h hstep⟩

/-! ### When the queues change (R27, R32, R72) -/

/-- During a SERVICE step of `b` the active queue is still that of `b`, or the pending one, committed at a wrap (R157). -/
structure CommitOk (frame : Nat) (b : Block) (w : Sweep) : Prop where
  now_le : w.now ≤ b.now.toNat
  queue  : (w.block.evq = b.evq ∧ w.block.evn = b.evn ∧ w.block.pend = b.pend) ∨
    (b.pend = true ∧ frame ≤ b.now.toNat ∧ w.block.evq = b.shq ∧ w.block.evn = b.shn ∧ w.block.pend = false)

theorem commitOk_startService (frame : Nat) (b : Block) : CommitOk frame b (startService b) :=
  ⟨le_rfl, .inl (by simp [startService])⟩

/-- A marker the sequencer awaits stands at FRAME (R29, R30). -/
theorem tick_of_awaited_marker {frame : Nat} {w : Sweep} {e : Entry} (h : SweepOk frame w)
    (he : w.block.evq[w.block.evi.toNat]? = some e) (hwrap : e.wrap = true) : e.tick.toNat = frame := by
  rw [← entryAt_of_getElem? he] at hwrap ⊢
  rw [(QueueOk_wrap_iff h.queue h.evi_le).1 hwrap]
  exact h.queue.marker_tick

theorem commitOk_applyDue {frame : Nat} {b : Block} {w : Sweep} {e : Entry} (h : CommitOk frame b w) (hsweep : SweepOk frame w)
    (hfixed : SameFixed b w.block) (he : w.block.evq[w.block.evi.toNat]? = some e) (hd : isDue w.now e = true) :
    CommitOk frame b (applyDue frame e w) := by
  obtain ⟨hnow, hqueue⟩ := h
  rw [isDue_iff] at hd
  unfold applyDue
  cases hwrap : e.wrap
  · exact ⟨hnow, hqueue⟩
  · have hframe := tick_of_awaited_marker hsweep he hwrap
    refine ⟨by simp only [if_true, applyWrap]; omega, ?_⟩
    simp only [if_true, applyWrap, enterFrame_evq, enterFrame_evn, enterFrame_pend, Block.commit_evq, Block.commit_evn,
      Block.commit_pend, hfixed.shq, hfixed.shn]
    rcases hqueue with ⟨hevq, hevn, hpend⟩ | ⟨hpend, hlate, hevq, hevn, hdone⟩
    · cases hp : b.pend
      · exact .inl (by simp [hpend, hp, hevq, hevn])
      · exact .inr ⟨rfl, by omega, by simp [hpend, hp]⟩
    · exact .inr ⟨hpend, hlate, by simp [hdone, hevq, hevn]⟩

/-- An enabled SERVICE step keeps the active queue, or commits the pending one at a wrap (R155, R157). -/
theorem service_queue {frame : Nat} {b b' : Block} (h : BlockOk frame b) (hrun : b.run = true) (hb : service frame b = some b') :
    (b'.evq = b.evq ∧ b'.evn = b.evn) ∨
    (b.pend = true ∧ frame ≤ b.now.toNat ∧ b'.evq = b.shq ∧ b'.evn = b.shn ∧ b'.pend = false) := by
  obtain ⟨w, hw, rfl⟩ := service_eq_some hb
  obtain ⟨⟨-, -, hcommit⟩, -⟩ := serviceLoop_invariant
    (P := fun w => SweepOk frame w ∧ SameFixed b w.block ∧ CommitOk frame b w)
    (fun w e ⟨hsweep, hfixed, hcommit⟩ he hd =>
      ⟨sweepOk_applyDue hsweep he hd, hfixed.trans (sameFixed_applyDue frame e w), commitOk_applyDue hcommit hsweep hfixed he hd⟩)
    _ _ _ ⟨sweepOk_startService h hrun, sameFixed_startService b, commitOk_startService frame b⟩ hw
  exact hcommit.queue.imp_left fun ⟨hevq, hevn, _⟩ => ⟨hevq, hevn⟩

theorem BlockStep.evq_write {s : State} {b : Block} (hstep : BlockStep s b) (h : BlockOk Config.frameTicks s.block)
    (hne : b.evq ≠ s.block.evq ∨ b.evn ≠ s.block.evn) :
    (s.OffersCommand .initServos ∧ s.block.town = .free ∧ b.town = .servo) ∨
    (s.nextEvent = .service ∧ s.block.pend = true ∧ Config.frameTicks ≤ s.block.now.toNat ∧
      b.evq = s.block.shq ∧ b.evn = s.block.shn ∧ b.pend = false) := by
  have hsame : ¬(b.evq = s.block.evq ∧ b.evn = s.block.evn) := fun ⟨hq, hn⟩ => hne.elim (· hq) (· hn)
  cases hstep with
  | arm ho ht _ => exact .inl ⟨ho, ht, rfl⟩
  | service he henabled hb =>
    exact .inr ⟨he, (service_queue h (run_of_enabled h henabled) hb).resolve_left hsame⟩
  | _ => exact absurd ⟨rfl, rfl⟩ hsame

theorem BlockStep.shq_write {s : State} {b : Block} (hstep : BlockStep s b)
    (hne : b.shq ≠ s.block.shq ∨ b.shn ≠ s.block.shn) :
    s.block.town = .servo ∧ b.pend = true ∧
      (s.OffersCommand .initServos ∨ ∃ idx port pin rest pw, s.OffersCommand (.initServo idx port pin rest pw)) := by
  have hsame : ¬(b.shq = s.block.shq ∧ b.shn = s.block.shn) := fun ⟨hq, hn⟩ => hne.elim (· hq) (· hn)
  cases hstep with
  | rebuild ho ht _ => exact ⟨ht, rfl, .inl ho⟩
  | reregister ho _ _ _ ht _ => exact ⟨ht, rfl, .inr ⟨_, _, _, _, _, ho⟩⟩
  | service _ _ hb =>
    obtain ⟨-, hshq, hshn, -⟩ := service_frame hb
    exact absurd ⟨hshq, hshn⟩ hsame
  | _ => exact absurd ⟨rfl, rfl⟩ hsame

/-- Settles O55: `BlockStep.evq_write` and `BlockStep.shq_write` of the block after the step. -/
theorem scheduleChangesOnlyAtArmingOrWrap : Obligations.ScheduleChangesOnlyAtArmingOrWrap := by
  unfold Obligations.ScheduleChangesOnlyAtArmingOrWrap
  intro s t h hs
  obtain ⟨-, hstep⟩ := blockStep_of_step hs
  exact ⟨hstep.evq_write h, hstep.shq_write⟩

end Sys2Proof.Laws
end

section
/-! PROOFS. What GIE = 0 holds still (R70, R187), and what a repeated command leaves (R67, R183). -/

namespace Sys2Proof.Laws

open Sys2Proof.Machine

/-! ### The critical section (R70, R187) -/

theorem interruptEnabled_of_gie {b : Block} (h : b.gie = false) : b.interruptEnabled = false := by
  rw [Block.interruptEnabled, h, Bool.and_false]

theorem BlockStep.schedule_of_masked {s : State} {b : Block} (h : BlockStep s b) (hgie : s.block.gie = false)
    (hno : ¬ s.OffersCommand .initServos) :
    b.evi = s.block.evi ∧ b.phase = s.block.phase ∧ b.ocr = s.block.ocr ∧ b.fbase = s.block.fbase ∧
      b.evq = s.block.evq ∧ b.evn = s.block.evn ∧ b.ovr = s.block.ovr := by
  cases h with
  | arm ho _ _ => exact absurd ho hno
  | service _ henabled _ => simp [interruptEnabled_of_gie hgie] at henabled
  | _ => exact ⟨rfl, rfl, rfl, rfl, rfl, rfl, rfl⟩

/-- Settles O56: of the writes of `BlockStep` only the arming and an enabled SERVICE touch these elements, and GIE = 0 disables
SERVICE. -/
theorem criticalSectionHoldsTheSchedule : Obligations.CriticalSectionHoldsTheSchedule := by
  unfold Obligations.CriticalSectionHoldsTheSchedule
  exact fun s t h => (blockStep_of_step h).2.schedule_of_masked

/-! ### Writes that leave the same block when repeated -/

@[simp] theorem setPort_setPort (b : Block) (p : PortId) (v w : PortBits) : (b.setPort p v).setPort p w = b.setPort p w := by
  simp [Block.setPort]

@[simp] theorem portOf_setPort (b : Block) (p : PortId) (v : PortBits) : (b.setPort p v).portOf p = v := by
  simp [Block.portOf]

@[simp] theorem setChannel_setChannel (b : Block) (i : Fin 6) (c d : Channel) :
    (b.setChannel i c).setChannel i d = b.setChannel i d := by
  simp [Block.setChannel]

/-- A rebuild with the same result, after the registry write of the first, writes nothing new. -/
theorem setShadow_setChannel_repeated (b : Block) (q : Vector Entry 7) (n : BitVec 3) (i : Fin 6) (c : Channel) :
    ((((b.setShadow q n).setChannel i c).setShadow q n).setChannel i c) = (b.setShadow q n).setChannel i c :=
  setChannel_setChannel (b.setShadow q n) i c c

/-! ### Each command that writes, issued twice (R67) -/

/-- The second INIT_SERVO either fails, and changes nothing, or writes the same channel and rebuilds the same registry. -/
theorem initServo_repeated (frame : Nat) (idx : BitVec 3) (port : PortId) (pin : PinId) (rest : Level) (pw : Tick) (b : Block) :
    (initServo frame idx port pin rest pw (initServo frame idx port pin rest pw b).block).block =
      (initServo frame idx port pin rest pw b).block := by
  rcases initServo_cases frame idx port pin rest pw b with
    ⟨_, -, hfirst⟩ | ⟨hidx, -, -, ⟨ht, hfirst⟩ | ⟨q, n, ht, hb, hfirst⟩⟩
  · simp only [hfirst, failed_block]
  · rw [hfirst, done_block]
    rcases initServo_cases frame idx port pin rest pw (b.setChannel ⟨idx.toNat, hidx⟩ ⟨true, port, pin, rest, pw⟩) with
      ⟨_, -, hagain⟩ | ⟨_, -, -, ⟨-, hagain⟩ | ⟨_, _, ht', -, -⟩⟩
    · rw [hagain, failed_block]
    · rw [hagain, done_block, setChannel_setChannel]
    · exact absurd ht' ht
  · rw [hfirst, done_block]
    rcases initServo_cases frame idx port pin rest pw
        ((b.setShadow q n).setChannel ⟨idx.toNat, hidx⟩ ⟨true, port, pin, rest, pw⟩) with
      ⟨_, -, hagain⟩ | ⟨_, -, -, ⟨ht', -⟩ | ⟨q', n', -, hb', hagain⟩⟩
    · rw [hagain, failed_block]
    · exact absurd ht ht'
    · have hsame : BuildResult.built q' n' = .built q n := by
        rw [← hb', ← hb]
        simp
      obtain ⟨rfl, rfl⟩ := BuildResult.built.inj hsame
      rw [hagain, done_block, setShadow_setChannel_repeated]

theorem initServos_of_armed {frame : Nat} {b : Block} {q : Vector Entry 7} {n : BitVec 3} (ht : b.town = .servo)
    (hb : build frame b.ch = .built q n) : initServos frame b = done (b.setShadow q n) := by
  simp only [initServos, ht, hb]

/-- An INIT_SERVOS that finds the registry the arming was built from makes a shadow queue equal to the active one (R183). -/
theorem initServos_after_arming {b : Block} (hfree : b.town = .free) (harmed : (replyOf .initServos b).block.town = .servo) :
    let armed := (replyOf .initServos b).block
    (replyOf .initServos armed).block = armed.setShadow armed.evq armed.evn := by
  have hmoved : (replyOf .initServos b).block.town ≠ b.town := by simp [harmed, hfree]
  rcases initServos_cases Config.frameTicks b with
    ⟨_, -, hr⟩ | ⟨-, -, hr⟩ | ⟨q, n, -, hb, hr⟩ | ⟨_, _, ht, -, -⟩
  · exact absurd (by simp only [replyOf, hr, failed_block]) hmoved
  · exact absurd (by simp only [replyOf, hr, done_block]) hmoved
  · have hagain := initServos_of_armed (b := b.arm q n) rfl hb
    simp only [replyOf, hr, hagain, done_block, Block.arm_evq, Block.arm_evn]
  · simp [hfree] at ht

theorem gpioSet_repeated (p : PortId) (m : PortBits) (b : Block) :
    (gpioSet p m (gpioSet p m b).block).block = (gpioSet p m b).block := by
  simp [gpioSet, BitVec.or_assoc]

theorem gpioClr_repeated (p : PortId) (m : PortBits) (b : Block) :
    (gpioClr p m (gpioClr p m b).block).block = (gpioClr p m b).block := by
  simp [gpioClr, BitVec.and_assoc]

/-- R67, for a command that can be repeated at all: an EXT_CLAIM that sets FAULT is the last one (log entry 3). -/
theorem replyOf_repeated {i : Instr} {b : Block} (htgl : ∀ p m, i ≠ .gpioTgl p m)
    (harm : ¬(i = .initServos ∧ b.town = .free ∧ (replyOf i b).block.town = .servo))
    (hlive : (replyOf i b).block.fault = false) :
    (replyOf i (replyOf i b).block).block = (replyOf i b).block := by
  rcases replyOf_cases i b with
    ⟨_, -, hr⟩ | ⟨_, hr⟩ | ⟨_, _, _, _, _, _, _, rfl, -⟩ | ⟨_, _, _, _, _, _, _, _, _, rfl, -⟩ | ⟨_, _, rfl, ht, -, hr⟩ |
    ⟨q, n, rfl, ht, hb, hr⟩ | ⟨rfl, -, hr⟩ | ⟨v, rfl, -⟩ | ⟨p, m, _, hi, -⟩ | ⟨rfl, -, hr⟩ | ⟨rfl, -, hr⟩ | ⟨rfl, -, hr⟩
  · simp only [hr, failed_block]
  · simp only [hr, readOut_block]
  · exact initServo_repeated ..
  · exact initServo_repeated ..
  · exact absurd ⟨rfl, ht, by rw [hr]; rfl⟩ harm
  · have hagain := initServos_of_armed (b := b.setShadow q n) ht hb
    rw [hr, done_block, replyOf, hagain]
    rfl
  · rw [hr]; rfl
  · rfl
  · rcases hi with rfl | rfl | rfl
    · exact gpioSet_repeated ..
    · exact gpioClr_repeated ..
    · exact absurd rfl (htgl _ _)
  · rw [hr]; rfl
  · rw [hr] at hlive
    cases hlive
  · rw [hr]; rfl

/-- Settles O57: `replyOf_repeated`, and `initServos_after_arming` for the INIT_SERVOS repeated after the arming. -/
theorem repeatedCommandsAreIdempotent : Obligations.RepeatedCommandsAreIdempotent := by
  unfold Obligations.RepeatedCommandsAreIdempotent
  intro i s t u hfirst hagain
  obtain ⟨-, rfl⟩ := exec_eq_next.1 hfirst
  obtain ⟨hlive, rfl⟩ := exec_eq_next.1 hagain
  refine ⟨fun htgl harm => replyOf_repeated htgl harm hlive, ?_⟩
  rintro rfl hfree harmed
  exact initServos_after_arming hfree harmed

end Sys2Proof.Laws
end

section
/-! PROOFS. The 14 rows of the opcode map as word facts (R83, R84): the command a row reads from a word keeps exactly the bits its
mask leaves free. From it, with the round trip `decode_encode`, the decoder is settled as a map (R84, R85). -/

namespace Sys2Proof.Laws

/-! ### A field put back where it was read (R83) -/

/-- Reading a field and putting it back keeps the bits of the field and clears all others. -/
theorem place_field {lo len : Nat} (w : Word) : place 32 lo (field w lo len) = w &&& place 32 lo (BitVec.allOnes len) := by
  refine BitVec.eq_of_getLsbD_eq fun j hj => ?_
  by_cases hlo : j < lo
  · simp [hlo]
  · have hback : lo + (j - lo) = j := by omega
    simp [hj, hlo, hback, Bool.and_comm]

theorem placeBit_getLsbD {lo : Nat} (w : Word) : placeBit 32 lo (w.getLsbD lo) = w &&& placeBit 32 lo true := by
  refine BitVec.eq_of_getLsbD_eq fun j hj => ?_
  by_cases hlo : j = lo
  · simp [hlo, Bool.and_comm]
  · simp [hlo]

/-! ### The rows -/

theorem match_and_mask : ∀ r ∈ opcodeRows, r.matchBits &&& r.mask = r.matchBits := by decide

/-- The word of the command a row reads from `w` is the row's match with the bits of `w` that the row's mask leaves free: each
operand is put back where it was read, and the operands of the row together fill what its mask leaves. -/
theorem encode_command : ∀ r ∈ opcodeRows, ∀ w, encode (r.command w) = r.matchBits ||| (w &&& ~~~ r.mask) := by
  have hfixed : ~~~ 0xFFFFFFFF#32 = 0#32 := by decide
  simp only [opcodeRows, List.forall_mem_cons, List.not_mem_nil, false_imp_iff, implies_true, and_true, encode, initServoOf,
    place_field, placeBit_getLsbD, BitVec.or_assoc, ← BitVec.and_or_distrib_left, hfixed, BitVec.and_zero, BitVec.or_zero]
  and_intros <;> exact fun _ => rfl

/-- A row covers exactly the words that are the encoding of the command the row reads from them. -/
theorem covers_iff_encode {r : OpcodeRow} (hr : r ∈ opcodeRows) (w : Word) :
    w &&& r.mask = r.matchBits ↔ encode (r.command w) = w := by
  rw [encode_command r hr]
  constructor <;> intro h
  · rw [← h, ← BitVec.and_or_distrib_left, BitVec.or_not_self, BitVec.and_allOnes]
  · rw [← h, BitVec.and_or_distrib_right, match_and_mask r hr, BitVec.and_assoc, BitVec.not_and_self]
    simp

/-- A legal word is the one word of its command (R81, R85): the row that decoded it covers it. -/
theorem encode_of_decode {w : Word} {i : Instr} (h : decode w = .ok i) : encode i = w := by
  obtain ⟨r, hr, hc, rfl⟩ := row_of_decode h
  exact (covers_iff_encode (List.mem_of_getElem? hr) w).1 (by simpa [OpcodeRow.covers] using hc)

theorem decode_eq_ok_iff {w : Word} {i : Instr} : decode w = .ok i ↔ encode i = w :=
  ⟨encode_of_decode, fun h => h ▸ decode_encode i⟩

/-- R84 for one row: `(w AND mask) = match` exactly when `w` decodes to the command the row reads from it. -/
theorem covers_iff_decode {r : OpcodeRow} (hr : r ∈ opcodeRows) (w : Word) :
    w &&& r.mask = r.matchBits ↔ decode w = .ok (r.command w) := by
  rw [covers_iff_encode hr, decode_eq_ok_iff]

/-! ### The decoder and the encoder are inverse, row by row -/

/-- Settles O2: the round trip `decode_encode`. -/
theorem decodeOfEncodeIsTheCommand : Obligations.DecodeOfEncodeIsTheCommand := by
  unfold Obligations.DecodeOfEncodeIsTheCommand
  exact decode_encode

/-- Settles O3: `encode_of_decode`. -/
theorem encodeOfDecodeIsTheWord : Obligations.EncodeOfDecodeIsTheWord := by
  unfold Obligations.EncodeOfDecodeIsTheWord
  exact fun _ _ => encode_of_decode

/-- Settles O4: `covers_iff_decode` of each row of the map, in order. -/
theorem decodeFollowsOpcodeMap : Obligations.DecodeFollowsOpcodeMap := by
  unfold Obligations.DecodeFollowsOpcodeMap
  intro w
  have hrows : ∀ r ∈ opcodeRows, (w &&& r.mask = r.matchBits ↔ decode w = .ok (r.command w)) :=
    fun r hr => covers_iff_decode hr w
  simpa only [opcodeRows, List.forall_mem_cons, List.not_mem_nil, false_imp_iff, implies_true, and_true, initServoOf, field]
    using hrows

/-- Settles O1: each of these closed words, run through the decoder. -/
theorem writtenOutWordsDecode : Obligations.WrittenOutWordsDecode := by
  unfold Obligations.WrittenOutWordsDecode
  decide

end Sys2Proof.Laws
end

section
/-! PROOFS. The illegal words (R88): no row for the opcode, or a reserved bit of the opcode's row set; and the legal words whose
out-of-range operand the command answers with an error. -/

namespace Sys2Proof.Laws

open Sys2Proof.Machine

/-! ### The reserved bits of a row (R83) -/

/-- The bits below the opcode that a row's mask fixes. `reservedBits_of_rows` gives them row by row. -/
def reservedBits (r : OpcodeRow) : Word := r.mask &&& 0x0FFFFFFF#32

theorem reservedBits_of_rows : opcodeRows.map reservedBits =
    [0x0FFFFFFF#32, 0x00070000#32, 0x0FFFFFFF#32, 0x0FFFFFFF#32, 0x0FFFFFFE#32, 0x0FFFFFF0#32, 0x0FFFFFF8#32,
      0x0FFFFFF0#32, 0x0FFFFFFC#32, 0x0FFFFC00#32, 0x0FFFFC00#32, 0x0FFFFC00#32, 0x0FFFFFFF#32, 0x0FFFFFFF#32] := by decide

theorem opcodeBits_and_reservedBits (r : OpcodeRow) : 0xF0000000#32 &&& reservedBits r = 0#32 := by
  rw [reservedBits, BitVec.and_comm r.mask, ← BitVec.and_assoc]
  simp

theorem mask_eq_opcode_or_reservedBits : ∀ r ∈ opcodeRows, r.mask = 0xF0000000#32 ||| reservedBits r := by decide

/-- Every row matches an opcode and nothing else: its reserved bits read 0. -/
theorem match_eq_placeOp : ∀ r ∈ opcodeRows, r.matchBits = placeOp (field r.matchBits 28 4) := by decide

theorem opcode_of_row {k : Nat} {r : OpcodeRow} (hr : opcodeRows[k]? = some r) : (field r.matchBits 28 4).toNat = k := by
  have hk : k < 14 := (List.getElem?_eq_some_iff.1 hr).1
  have hkey : (opcodeRows.map fun r => (field r.matchBits 28 4).toNat)[k]? = some k := by
    simp [rows_opcodes, List.getElem?_range' hk]
  simpa [hr] using hkey

/-- The opcode bits of a word, left in their place (R81). -/
theorem placeOp_opcodeOf (w : Word) : placeOp (opcodeOf w) = w &&& 0xF0000000#32 := place_field w

theorem toNat_opcodeOf (w : Word) : (opcodeOf w).toNat = w.toNat / 2 ^ 28 := by
  have := w.isLt
  simp [opcodeOf, field, Nat.shiftRight_eq_div_pow]
  omega

theorem or_eq_left_iff_of_disjoint {x y : Word} (h : x &&& y = 0#32) : x ||| y = x ↔ y = 0#32 := by
  refine ⟨fun hor => ?_, fun hy => by simp [hy]⟩
  have habsorb : (x ||| y) &&& y = y := by rw [BitVec.and_or_distrib_right, BitVec.and_self, h, BitVec.zero_or]
  rw [← habsorb, hor, h]

/-- The row of a word's opcode covers the word exactly when no reserved bit of the row is set in it. -/
theorem covers_iff_reservedBits {w : Word} {r : OpcodeRow} (hr : opcodeRows[(opcodeOf w).toNat]? = some r) :
    r.covers w = true ↔ w &&& reservedBits r = 0#32 := by
  have hmem := List.mem_of_getElem? hr
  have hop : field r.matchBits 28 4 = opcodeOf w := BitVec.eq_of_toNat_eq (opcode_of_row hr)
  have hmatch : r.matchBits = w &&& 0xF0000000#32 := by rw [match_eq_placeOp r hmem, hop, placeOp_opcodeOf]
  have hmask : w &&& r.mask = w &&& 0xF0000000#32 ||| w &&& reservedBits r := by
    rw [mask_eq_opcode_or_reservedBits r hmem, BitVec.and_or_distrib_left]
  have hdisjoint : w &&& 0xF0000000#32 &&& (w &&& reservedBits r) = 0#32 := by
    calc w &&& 0xF0000000#32 &&& (w &&& reservedBits r)
      _ = w &&& w &&& (0xF0000000#32 &&& reservedBits r) := by ac_rfl
      _ = 0#32 := by rw [opcodeBits_and_reservedBits, BitVec.and_zero]
  rw [OpcodeRow.covers, beq_iff_eq, hmask, hmatch, or_eq_left_iff_of_disjoint hdisjoint]

/-! ### Which words are illegal -/

theorem decode_error_iff {w : Word} :
    (∃ e, decode w = .error e) ↔ ∀ r, opcodeRows[(opcodeOf w).toNat]? = some r → r.covers w = false := by
  refine ⟨fun ⟨e, he⟩ r hr => ?_, fun h => ⟨_, decode_of_no_row h⟩⟩
  cases hc : r.covers w
  · rfl
  · simp [decode_of_row hr hc] at he

/-- R88: the opcode has no row, or its row has a reserved bit that is set in the word. -/
theorem decode_error_iff_reserved (w : Word) :
    (∃ e, decode w = .error e) ↔ 14 ≤ (opcodeOf w).toNat ∨
      ∃ reserved, (opcodeRows.map reservedBits)[(opcodeOf w).toNat]? = some reserved ∧ w &&& reserved ≠ 0#32 := by
  rw [decode_error_iff, List.getElem?_map]
  have hlen : opcodeRows.length = 14 := rfl
  cases hr : opcodeRows[(opcodeOf w).toNat]? with
  | none =>
    have hge : 14 ≤ (opcodeOf w).toNat := by simpa only [List.getElem?_eq_none_iff, hlen] using hr
    simp [hge]
  | some r =>
    have hlt : ¬ 14 ≤ (opcodeOf w).toNat := by
      have := (List.getElem?_eq_some_iff.1 hr).1
      omega
    simp [hlt, ← covers_iff_reservedBits hr]

/-! ### Commands that answer an error -/

theorem replies_failed {s : State} {i : Instr} {st : Status} {w : Word} (hlive : s.Live)
    (hr : replyOf i s.block = failed s.block st) (hw : responseWord st 0 = w) : Replies i s s.block w := by
  rw [Replies, exec_live hlive, hr, ← hw]
  rfl

/-- The HOST step of an illegal word (R85, R88). -/
theorem step_of_illegal {s : State} {w : Word} {e : Illegal} (hlive : s.Live) (hs : s.nextEvent = .host w)
    (hd : decode w = .error e) : step s = .next { s.dropEvent with response := some (responseWord .errIllegal 0) } := by
  have hstep : step s = illegalStep s.dropEvent := by simp [step, hs, commandStep, hd]
  rw [hstep, illegalStep, hostStep_eq_next]
  exact ⟨by rw [State.dropEvent_block, hlive], rfl⟩

theorem initServo_of_index_ge {frame : Nat} {idx : BitVec 3} {port : PortId} {pin : PinId} {rest : Level} {pw : Tick} {b : Block}
    (h : 6 ≤ idx.toNat) : initServo frame idx port pin rest pw b = failed b .errIndex := by
  rw [initServo, dif_neg (by omega)]

theorem rdReg_of_ge {frame : Nat} {r : BitVec 4} {b : Block} (h : 9 ≤ r.toNat) : rdReg frame r b = failed b .errRange := by
  have hname : regName? r = none := by
    revert r
    decide
  rw [rdReg, hname]

theorem rdCh_of_ge {i : BitVec 3} {b : Block} (h : 6 ≤ i.toNat) : rdCh i b = failed b .errRange := by
  have hslot : b.channel? i = none := by simp [Block.channel?, h]
  rw [rdCh, hslot]

theorem rdEv_of_ge {sel : Bool} {k : BitVec 3} {b : Block} (h : 7 ≤ k.toNat) : rdEv sel k b = failed b .errRange := by
  have hplace : b.entry? sel k = none := by simp [Block.entry?, h]
  rw [rdEv, hplace]

/-- Settles O5: `decode_error_iff_reserved`, `step_of_illegal`, and the round trip with the error reply of each command. -/
theorem reservedWordsAreIllegal : Obligations.ReservedWordsAreIllegal := by
  unfold Obligations.ReservedWordsAreIllegal
  refine ⟨fun w => ?_, fun s w e => step_of_illegal, fun s idx port pin rest pw hlive hidx => ?_, fun s r hlive hr => ?_,
    fun s i hlive hi => ?_, fun s sel hlive => ?_⟩
  · rw [decode_error_iff_reserved, reservedBits_of_rows, toNat_opcodeOf]
  · exact ⟨decode_encode _, replies_failed hlive (initServo_of_index_ge hidx) rfl⟩
  · exact ⟨decode_encode _, replies_failed hlive (rdReg_of_ge hr) rfl⟩
  · exact ⟨decode_encode _, replies_failed hlive (rdCh_of_ge hi) rfl⟩
  · exact ⟨decode_encode _, replies_failed hlive (rdEv_of_ge (sel := sel) (k := 7) (by decide)) rfl⟩

end Sys2Proof.Laws
end

section
/-! PROOFS. The pseudo-commands (R93). -/

namespace Sys2Proof.Laws

open Sys2Proof.Machine

/-- `rd_sh k` is the line `rd_ev 1, k` (R93), whatever the number written. -/
theorem eventsOf_rdSh (k : Nat) : eventsOf (.rdSh k) = eventsOf (.rdEv 1 k) := rfl

theorem encode_rdEv_shadow : ∀ k < 8, encode (.rdEv true (BitVec.ofNat 3 k)) = 0x70000008#32 + BitVec.ofNat 32 k := by decide

/-- Settles O6: the text of each line is closed and is run through the assembler; `rd_sh k` goes through `encode_rdEv_shadow`. -/
theorem pseudoCommandsExpand : Obligations.PseudoCommandsExpand := by
  unfold Obligations.PseudoCommandsExpand
  refine ⟨by decide, by decide, by decide, by decide, by decide, by decide, by decide, by decide, by decide, by decide, by decide,
    by decide, fun k hk => ⟨?_, eventsOf_rdSh k⟩, by decide, by decide⟩
  show [Event.host (encode (.rdEv true (BitVec.ofNat 3 k)))] = _
  rw [encode_rdEv_shadow k hk]

end Sys2Proof.Laws
end

section
/-! PROOFS. The Channel Registry commands (R110, R111, R116): INIT_SERVO check by check, and RD_CH with the channel record. -/

namespace Sys2Proof.Laws

open Sys2Proof.Machine

/-! ### The row and the reply of a command -/

/-- The word of a command is one of its own row, and decodes to it (R84, R85). -/
theorem encodedBy_of_row {i : Instr} {r : OpcodeRow} (hr : opcodeRows[(commandOpcode i).toNat]? = some r) :
    EncodedBy i r.matchBits r.mask := by
  obtain ⟨r', hr', hc⟩ := encoding_statement i
  obtain rfl : r' = r := Option.some.inj (hr' ▸ opcodeOf_encode i ▸ hr)
  exact ⟨by simpa [OpcodeRow.covers] using hc, decode_encode i⟩

/-- A command of an unfaulted block answers with the block and the response word of its reply. -/
theorem replies_of_replyOf {s : State} {i : Instr} {r : Reply} (hlive : s.Live) (hr : replyOf i s.block = r) :
    Replies i s r.block (responseWord r.status r.data) := by
  rw [Replies, exec_live hlive, hr]
  rfl

theorem replies_done {s : State} {i : Instr} {b : Block} (hlive : s.Live) (hr : replyOf i s.block = done b) :
    Replies i s b 0x00000000#32 := by
  have hword : responseWord .ok 0 = 0x00000000#32 := by decide
  exact hword ▸ replies_of_replyOf hlive hr

theorem replies_readOut {s : State} {i : Instr} {d : Data} (hlive : s.Live) (hr : replyOf i s.block = readOut s.block d) :
    Replies i s s.block (responseWord .ok d) :=
  replies_of_replyOf hlive hr

/-! ### Reading a record field by field (R83) -/

/-- A field of a record read where it was put is the value put there. -/
@[simp] theorem extractLsb'_place_same {width lo len : Nat} (h : lo + len ≤ width) (v : BitVec len) :
    (place width lo v).extractLsb' lo len = v :=
  BitVec.eq_of_getLsbD_eq fun j hj => by
    have hin : lo + j < width := by omega
    simp [hj, hin]

/-- A field of a record read where another, disjoint one was put is 0. -/
@[simp] theorem extractLsb'_place_disjoint {width lo len lo' len' : Nat} (h : lo' + len' ≤ lo ∨ lo + len ≤ lo')
    (v : BitVec len') : (place width lo' v).extractLsb' lo len = 0#len :=
  BitVec.eq_of_getLsbD_eq fun j hj => by
    rcases h with hbelow | habove
    · simp [BitVec.getLsbD_of_ge v (lo + j - lo') (by omega)]
    · have hlow : lo + j < lo' := by omega
      simp [hlow]

@[simp] theorem extractLsb'_placeBit_disjoint {width lo len lo' : Nat} (h : lo' + 1 ≤ lo ∨ lo + len ≤ lo') (v : Bool) :
    (placeBit width lo' v).extractLsb' lo len = 0#len :=
  extractLsb'_place_disjoint h _

/-- The channel record holds each field of the slot in the bits R89 gives it, and 0 above them. -/
theorem channelRecord_fields (c : Channel) :
    (channelRecord c).extractLsb' 23 5 = 0 ∧ (channelRecord c).getLsbD 22 = c.valid ∧
      (channelRecord c).extractLsb' 20 2 = c.port ∧ (channelRecord c).extractLsb' 17 3 = c.pin ∧
      (channelRecord c).getLsbD 16 = c.rest ∧ (channelRecord c).extractLsb' 0 16 = c.pw := by
  and_intros <;> simp [channelRecord, BitVec.extractLsb'_or]

/-! ### RD_CH (R116) -/

theorem rdCh_of_lt {i : BitVec 3} {b : Block} (h : i.toNat < 6) :
    rdCh i b = readOut b (channelRecord (b.ch[i.toNat]'h)) := by
  have hslot : b.channel? i = some (b.ch[i.toNat]'h) := Vector.getElem?_eq_getElem h
  rw [rdCh, hslot]

/-- Settles O18: `rdCh_of_lt` and `channelRecord_fields` for a slot, `rdCh_of_ge` past the last one. -/
theorem rdChReadsTheSlot : Obligations.RdChReadsTheSlot := by
  unfold Obligations.RdChReadsTheSlot
  intro s i hlive
  refine ⟨encodedBy_of_row (r := opcodeRows[6]) rfl, fun hi => replies_failed hlive (rdCh_of_ge hi) rfl, fun hi => ?_⟩
  refine ⟨_, replies_readOut hlive (rdCh_of_lt hi), statusOf_responseWord .ok _, ?_⟩
  rw [dataOf_responseWord]
  exact channelRecord_fields _

/-! ### INIT_SERVO: each check with those before it passed (R110, R111) -/

section InitServo

variable {frame : Nat} {idx : BitVec 3} {port : PortId} {pin : PinId} {rest : Level} {pw : Tick} {b : Block}

theorem initServo_of_width_nonpos (h : idx.toNat < 6) (hpw : pw.toInt ≤ 0) :
    initServo frame idx port pin rest pw b = failed b .errWidth := by
  rw [initServo, dif_pos h, if_pos (show sext16 pw ≤ 0 from hpw)]

theorem initServo_of_collides (h : idx.toNat < 6) (hpw : 0 < pw.toInt) (hcollides : Collides b.ch ⟨idx.toNat, h⟩ port pin) :
    initServo frame idx port pin rest pw b = failed b .errCollision := by
  rw [initServo, dif_pos h, if_neg (show ¬ sext16 pw ≤ 0 from hpw.not_ge), if_pos hcollides]

theorem initServo_of_apart (h : idx.toNat < 6) (hpw : 0 < pw.toInt) (hapart : ¬ Collides b.ch ⟨idx.toNat, h⟩ port pin) :
    initServo frame idx port pin rest pw b = register frame ⟨idx.toNat, h⟩ ⟨true, port, pin, rest, pw⟩ b := by
  rw [initServo, dif_pos h, if_neg (show ¬ sext16 pw ≤ 0 from hpw.not_ge), if_neg hapart]

end InitServo

/-- The collision check of R110 with the other slot named by its number. -/
theorem collides_iff {reg : Registry} {k : Nat} {h : k < 6} {port : PortId} {pin : PinId} :
    Collides reg ⟨k, h⟩ port pin ↔
      ∃ j : Fin 6, j.val ≠ k ∧ reg[j].valid = true ∧ reg[j].port = port ∧ reg[j].pin = pin := by
  simp only [Collides, ne_eq, Fin.ext_iff]

/-! ### The write of a slot, with the rebuild while armed (R110, R114) -/

section Register

variable {frame : Nat} {i : Fin 6} {c : Channel} {b : Block}

theorem register_of_not_armed (ht : b.town ≠ .servo) : register frame i c b = done (b.setChannel i c) := by
  rw [register, if_neg ht]

theorem register_of_reject (ht : b.town = .servo) (hb : build frame (b.ch.set i c) = .reject) :
    register frame i c b = failed b .errSchedule := by
  rw [register, if_pos ht, hb]

theorem register_of_built {q : Vector Entry 7} {n : BitVec 3} (ht : b.town = .servo)
    (hb : build frame (b.ch.set i c) = .built q n) : register frame i c b = done ((b.setShadow q n).setChannel i c) := by
  rw [register, if_pos ht, hb]

end Register

/-- A registry with a valid channel just written to it is never EMPTY to BUILD (R131). -/
theorem build_set_ne_empty {frame : Nat} {reg : Registry} {i : Fin 6} {c : Channel} (hc : c.valid = true) :
    build frame (reg.set i c) ≠ .empty :=
  build_ne_empty (i := i) (by simpa using hc)

/-- Settles O16: the checks in their order, then `register` of a slot that passed them, armed and not armed. -/
theorem initServoChecksThenRegisters : Obligations.InitServoChecksThenRegisters := by
  unfold Obligations.InitServoChecksThenRegisters
  intro s idx port pin rest pw hlive
  refine ⟨encodedBy_of_row (r := opcodeRows[1]) rfl, fun hidx => replies_failed hlive (initServo_of_index_ge hidx) rfl,
    fun hidx => ?_⟩
  simp only [← collides_iff (h := hidx)]
  refine ⟨fun hpw => replies_failed hlive (initServo_of_width_nonpos hidx hpw) rfl,
    fun hpw hcollides => replies_failed hlive (initServo_of_collides hidx hpw hcollides) rfl,
    fun hpw hapart ht => ?_, fun hpw hapart ht => ⟨fun hb => ?_, fun q n hb => ?_, build_set_ne_empty (i := ⟨_, hidx⟩) rfl⟩⟩
  · exact replies_done hlive ((initServo_of_apart hidx hpw hapart).trans (register_of_not_armed ht))
  · exact replies_failed hlive ((initServo_of_apart hidx hpw hapart).trans (register_of_reject ht hb)) rfl
  · exact replies_done hlive ((initServo_of_apart hidx hpw hapart).trans (register_of_built ht hb))

end Sys2Proof.Laws
end

section
/-! PROOFS. The Pulse Timing Engine: what BUILD answers on a registry (R131 to R137), and RD_EV with the event record (R90, R139). -/

namespace Sys2Proof.Laws

open Sys2Proof.Machine

/-! ### BUILD in terms of the registry (R131, R132) -/

theorem sortedSlots_eq_nil_iff {reg : Registry} : sortedSlots reg = [] ↔ ∀ i : Fin 6, reg[i].valid = false := by
  simp only [List.eq_nil_iff_forall_not_mem, mem_sortedSlots, Bool.not_eq_true]

/-- The width sum of S is the sum over all slots, the slots that are not valid counted as 0 (R132). -/
theorem totalWidth_sortedSlots_eq_sum (reg : Registry) :
    totalWidth reg (sortedSlots reg) = ∑ i : Fin 6, if reg[i].valid then reg[i].pw.toNat else 0 := by
  have hslots : (validSlots reg).toFinset = Finset.univ.filter fun i : Fin 6 => reg[i].valid = true := by
    ext i
    simp only [List.mem_toFinset, mem_validSlots, Finset.mem_filter, Finset.mem_univ, true_and]
  rw [totalWidth_sortedSlots, totalWidth, ← List.sum_toFinset _ (validSlots_nodup reg), hslots, Finset.sum_filter]
  rfl

/-- The last width of S reaches FRAME exactly when some valid width does (R131, R132). -/
theorem le_lastWidth_iff {frame : Nat} {reg : Registry} (hne : sortedSlots reg ≠ []) :
    frame ≤ lastWidth reg (sortedSlots reg) ↔ ∃ i : Fin 6, reg[i].valid = true ∧ frame ≤ reg[i].pw.toNat := by
  constructor
  · intro hle
    obtain ⟨i, hi, hlast⟩ := lastWidth_attained hne
    exact ⟨i, mem_sortedSlots.1 hi, hle.trans_eq hlast.symm⟩
  · rintro ⟨i, hi, hle⟩
    exact hle.trans (width_le_lastWidth (mem_sortedSlots.2 hi))

/-- Settles O20: `build_eq_empty_iff` and `build_eq_reject_iff`, with S, its width sum and its last width read off the registry. -/
theorem buildRejectsMalformedSchedules : Obligations.BuildRejectsMalformedSchedules := by
  unfold Obligations.BuildRejectsMalformedSchedules
  intro frame reg total
  have hsome : sortedSlots reg ≠ [] ↔ ∃ i : Fin 6, reg[i].valid = true := by
    simp only [ne_eq, sortedSlots_eq_nil_iff, not_forall, Bool.not_eq_false]
  refine ⟨build_eq_empty_iff.trans sortedSlots_eq_nil_iff, ?_⟩
  rw [build_eq_reject_iff, totalWidth_sortedSlots_eq_sum, ← hsome]
  exact and_congr_right fun hne => or_congr_right (le_lastWidth_iff hne)

/-! ### The built queue (R133 to R137) -/

/-- Settles O21: the order is S, and the places of the queue are those of `built_rest`, `built_marker` and `built_unused`. -/
theorem buildEmitsChannelsInOrder : Obligations.BuildEmitsChannelsInOrder := by
  unfold Obligations.BuildEmitsChannelsInOrder
  intro frame reg q n hb
  refine ⟨sortedSlots reg, fun i => mem_sortedSlots, ?_, built_length hb, built_rest hb, built_marker hb,
    fun k hk _ => built_unused hb k hk⟩
  refine (sortedSlots_pairwise reg).imp fun hij => ?_
  exact (comesBefore_iff.1 hij).imp_right (And.imp_left BitVec.eq_of_toNat_eq)

/-- The registry of the source's scenario: widths 35 and 80 on pins 2 and 5 of port 1, both resting LOW (R137). -/
def sourceRegistry : Registry :=
  #v[⟨true, 1, 2, false, 35⟩, ⟨true, 1, 5, false, 80⟩, Channel.empty, Channel.empty, Channel.empty, Channel.empty]

theorem sortedSlots_sourceRegistry : sortedSlots sourceRegistry = [0, 1] := by decide

theorem totalWidth_sourceRegistry : totalWidth sourceRegistry [0, 1] = 115 := by decide

theorem lastWidth_sourceRegistry : lastWidth sourceRegistry [0, 1] = 80 := by decide

/-- Settles O23: the scenario's S is [0, 1], of width sum 115 and last width 80, so `build_eq_built_iff` gives its queue. -/
theorem sourceScenarioSchedule : Obligations.SourceScenarioSchedule := by
  unfold Obligations.SourceScenarioSchedule
  intro frame hfits _
  change build frame sourceRegistry = _
  rw [build_eq_built_iff, sortedSlots_sourceRegistry, totalWidth_sourceRegistry, lastWidth_sourceRegistry]
  exact ⟨by simp, hfits, by omega, rfl, rfl⟩

/-! ### RD_EV (R139) -/

/-- The event record holds each field of the entry in the bits R90 gives it: its layout is that of the channel record (R89). -/
theorem eventRecord_fields (e : Entry) :
    (eventRecord e).extractLsb' 23 5 = 0 ∧ (eventRecord e).getLsbD 22 = e.wrap ∧
      (eventRecord e).extractLsb' 20 2 = e.port ∧ (eventRecord e).extractLsb' 17 3 = e.pin ∧
      (eventRecord e).getLsbD 16 = e.level ∧ (eventRecord e).extractLsb' 0 16 = e.tick :=
  channelRecord_fields ⟨e.wrap, e.port, e.pin, e.level, e.tick⟩

theorem rdEv_of_lt {sel : Bool} {k : BitVec 3} {b : Block} (h : k.toNat < 7) :
    rdEv sel k b = readOut b (eventRecord (if sel then b.shq[k.toNat]'h else b.evq[k.toNat]'h)) := by
  have hplace : b.entry? sel k = some (if sel then b.shq[k.toNat]'h else b.evq[k.toNat]'h) := by
    cases sel
    · exact Vector.getElem?_eq_getElem h
    · exact Vector.getElem?_eq_getElem h
  rw [rdEv, hplace]

/-- Settles O19: `rdEv_of_lt` and `eventRecord_fields` for a place of the queue, `rdEv_of_ge` past the last one. -/
theorem rdEvReadsTheEntry : Obligations.RdEvReadsTheEntry := by
  unfold Obligations.RdEvReadsTheEntry
  intro s sel k hlive
  refine ⟨encodedBy_of_row (r := opcodeRows[7]) rfl, fun hk => replies_failed hlive (rdEv_of_ge (by simp [hk])) rfl, fun hk => ?_⟩
  refine ⟨_, replies_readOut hlive (rdEv_of_lt hk), statusOf_responseWord .ok _, ?_⟩
  rw [dataOf_responseWord]
  exact eventRecord_fields _

end Sys2Proof.Laws
end

section
/-! PROOFS. TICK and the offers that are not enabled (R150, R151, R154), the GPIO primitive and the initial drive (R152, R153),
and what a SERVICE step leaves alone (R48, R155, R231). -/

namespace Sys2Proof.Laws

open Sys2Proof.Machine

/-! ### TICK (R150, R151) -/

/-- An enabled TICK step is the operation `tick`, with the offer used up and no response. -/
theorem step_tick {s : State} (hlive : s.Live) (hs : s.nextEvent = .tick) (hrun : s.block.run = true) :
    step s = .next (s.dropEvent.silent (tick s.block)) := by
  have hf : s.block.fault = false := hlive
  simp [step, hs, tickStep, hf, hrun]

theorem ocf_tick_iff (b : Block) : (tick b).ocf = true ↔ b.ocf = true ∨ (tick b).cnt = b.ocr := by
  simp [ocfAfterTick]

/-- Settles O29: `step_tick`; the operation writes the counter and, by `ocf_tick_iff`, the match. -/
theorem tickAdvancesTheCounter : Obligations.TickAdvancesTheCounter := by
  unfold Obligations.TickAdvancesTheCounter
  exact fun s hlive hs hrun =>
    ⟨_, step_tick hlive hs hrun, rfl, by simp [BitVec.toNat_add], ocf_tick_iff s.block⟩

theorem BlockStep.ocf_rise {s : State} {b : Block} (h : BlockStep s b) (hno : s.block.ocf = false) (hocf : b.ocf = true) :
    (s.nextEvent = .tick ∧ s.block.run = true ∧ b.cnt = s.block.cnt + 1 ∧ b.cnt = b.ocr) ∨
    (s.OffersCommand .initServos ∧ s.block.town = .free ∧ b.town = .servo) := by
  have hsame : b.ocf ≠ s.block.ocf := by simp [hno, hocf]
  cases h with
  | tick he hrun =>
    have hmatch := ((ocf_tick_iff s.block).1 hocf).resolve_left (by simp [hno])
    exact .inl ⟨he, hrun, rfl, hmatch⟩
  | arm ho ht _ => exact .inr ⟨ho, ht, rfl⟩
  | service _ _ hb =>
    obtain ⟨-, -, -, -, -, -, -, -, -, hcleared, -⟩ := service_frame hb
    simp [hcleared] at hocf
  | disarm _ _ => simp at hocf
  | _ => exact absurd rfl hsame

/-- Settles O30: `BlockStep.ocf_rise` of the block after the step. -/
theorem requestArisesOnlyFromMatchOrArming : Obligations.RequestArisesOnlyFromMatchOrArming := by
  unfold Obligations.RequestArisesOnlyFromMatchOrArming
  exact fun s t h => (blockStep_of_step h).2.ocf_rise

/-! ### Offers that are not enabled (log entry 2) -/

theorem step_tick_disabled {s : State} (hlive : s.Live) (hs : s.nextEvent = .tick) (hrun : s.block.run = false) :
    step s = .next (s.dropEvent.silent s.block) := by
  have hf : s.block.fault = false := hlive
  simp [step, hs, tickStep, hf, hrun]

theorem step_service_disabled {s : State} (hlive : s.Live) (hs : s.nextEvent = .service)
    (hi : s.block.interruptEnabled = false) : step s = .next (s.dropEvent.silent s.block) := by
  have hf : s.block.fault = false := hlive
  simp [step, hs, serviceStep, hf, hi]

theorem interruptEnabled_eq_false_iff {b : Block} :
    b.interruptEnabled = false ↔ b.ocf = false ∨ b.ocie = false ∨ b.gie = false := by
  simp only [Block.interruptEnabled, Bool.and_eq_false_iff, or_assoc]

theorem silent_dropEvent_block (s : State) : s.dropEvent.silent s.block = { s.dropEvent with response := none } := by
  rw [← State.dropEvent_block s]
  rfl

/-- Settles O32: `step_tick_disabled` and `step_service_disabled`; both put the block back as it was. -/
theorem disabledOffersChangeNothing : Obligations.DisabledOffersChangeNothing := by
  unfold Obligations.DisabledOffersChangeNothing
  rintro s hlive (⟨hs, hrun⟩ | ⟨hs, hi⟩)
  · rw [step_tick_disabled hlive hs hrun, silent_dropEvent_block]
  · rw [step_service_disabled hlive hs (interruptEnabled_eq_false_iff.2 hi), silent_dropEvent_block]

/-! ### Driving pins (R152, R153) -/

theorem drive_drive_same (ports : Vector PortBits 4) (p : PortId) (c : PinId) (level : Level) :
    drive (drive ports p c level) p c level = drive ports p c level :=
  ports_ext fun q d => by
    simp only [pinLevel_drive]
    split <;> rfl

/-- Settles O41: `pinLevel_drive` and `drive_drive_same`. -/
theorem driveAssignsOnePin : Obligations.DriveAssignsOnePin := by
  unfold Obligations.DriveAssignsOnePin
  exact fun ports p c level => ⟨fun q d => pinLevel_drive ports p q c d level, drive_drive_same ports p c level⟩

/-- Settles O42: `pinLevel_doActive_entry` and `pinLevel_doActive_other`; do_active is a record update of the ports. -/
theorem initialDriveActivatesEveryPin : Obligations.InitialDriveActivatesEveryPin := by
  unfold Obligations.InitialDriveActivatesEveryPin
  exact fun frame b hq => ⟨fun k hk => pinLevel_doActive_entry hq hk, fun p c hno => pinLevel_doActive_other hno, rfl⟩

/-! ### A SERVICE step that ends in a next state -/

/-- The block after an offered SERVICE step: that of `service` where the step is enabled, else the block before. -/
theorem block_of_step_service {s t : State} (hs : s.nextEvent = .service) (h : step s = .next t) :
    (s.block.interruptEnabled = true ∧ service Config.frameTicks s.block = some t.block ∧ t = s.dropEvent.silent t.block) ∨
    (s.block.interruptEnabled = false ∧ t.block = s.block) := by
  obtain ⟨-, ⟨w, i, he, -⟩ | ⟨w, e, he, -⟩ | ⟨he, -⟩ | ⟨-, hi, b, hb, rfl⟩ | ⟨-, hi, rfl⟩⟩ := step_cases h
  · simp [hs] at he
  · simp [hs] at he
  · simp [hs] at he
  · exact .inl ⟨hi, hb, rfl⟩
  · exact .inr ⟨hi, rfl⟩

/-- The block after an enabled SERVICE step is that of `service`. -/
theorem service_of_step {s t : State} (hs : s.nextEvent = .service) (hi : s.block.interruptEnabled = true)
    (h : step s = .next t) : service Config.frameTicks s.block = some t.block ∧ t = s.dropEvent.silent t.block := by
  rcases block_of_step_service hs h with ⟨-, hdone⟩ | ⟨hno, -⟩
  · exact hdone
  · simp [hi] at hno

/-- Settles O34: `service_frame` of the block after the step; the response and the offers are those of `State.silent`. -/
theorem serviceFrame : Obligations.ServiceFrame := by
  unfold Obligations.ServiceFrame
  intro s t hs hi h
  obtain ⟨hb, ht⟩ := service_of_step hs hi h
  obtain ⟨hch, hshq, hshn, hcnt, hrun, hocie, hgie, htown, hfault, hocf, -⟩ := service_frame hb
  exact ⟨hch, hshq, hshn, hcnt, hrun, hocie, hgie, htown, hfault, hocf, by rw [ht]; rfl, by rw [ht]; simp⟩

/-! ### A SERVICE step on time counts no overrun (R158, R162) -/

/-- While the sweep's `now` is its `arm`, no due entry is a missed one. -/
theorem onTime_applyDue {frame : Nat} {w : Sweep} {e : Entry} (h : w.now = w.arm ∧ w.missed = false)
    (hd : isDue w.now e = true) :
    (applyDue frame e w).now = (applyDue frame e w).arm ∧ (applyDue frame e w).missed = false := by
  obtain ⟨hnow, hmissed⟩ := h
  rw [isDue_iff, hnow] at hd
  have hontime : isMissed w.arm e = false := by simp [isMissed, hd]
  unfold applyDue
  cases e.wrap
  · exact ⟨hnow, by simp [applyRest, hmissed, hontime]⟩
  · exact ⟨by simp [applyWrap, hnow], by simp [applyWrap, hmissed, hontime]⟩

theorem service_ovr_of_onTime {frame : Nat} {b b' : Block} (hontime : b.cnt = b.ocr) (hb : service frame b = some b') :
    b'.ovr = b.ovr := by
  obtain ⟨w, hw, rfl⟩ := service_eq_some hb
  have hstart : (startService b).now = (startService b).arm ∧ (startService b).missed = false := by
    simp [startService, Block.now, Block.armedFor, hontime]
  obtain ⟨⟨⟨-, hmissed⟩, hfixed⟩, -⟩ := serviceLoop_invariant (frame := frame)
    (P := fun w => (w.now = w.arm ∧ w.missed = false) ∧ SameFixed b w.block)
    (fun w e ⟨hP, hfixed⟩ _ hd => ⟨onTime_applyDue hP hd, hfixed.trans (sameFixed_applyDue frame e w)⟩)
    _ _ _ ⟨hstart, sameFixed_startService b⟩ hw
  rw [finishService_ovr, hmissed, hfixed.ovr]
  rfl

/-- Settles O38: `service_ovr_of_onTime`, and an offer that is not enabled writes nothing. -/
theorem onTimeServiceIsNoOverrun : Obligations.OnTimeServiceIsNoOverrun := by
  unfold Obligations.OnTimeServiceIsNoOverrun
  intro s t hs hontime h
  rcases block_of_step_service hs h with ⟨-, hb, -⟩ | ⟨-, ht⟩
  · exact service_ovr_of_onTime hontime hb
  · rw [ht]

/-! ### A SERVICE step writes no pin outside the queues (R48, R152) -/

/-- Neither the active queue nor a pending shadow queue names the pin. -/
structure Unscheduled (p : PortId) (c : PinId) (b : Block) : Prop where
  active : ¬ b.Drives p c
  shadow : b.pend = true → ∀ k, k < b.shn.toNat - 1 → ¬((entryAt b.shq k).port = p ∧ (entryAt b.shq k).pin = c)

/-- An entry of a sound queue that is no marker stands before the marker. -/
theorem SweepOk.evi_lt_marker {frame : Nat} {w : Sweep} {e : Entry} (h : SweepOk frame w)
    (he : w.block.evq[w.block.evi.toNat]? = some e) (hrest : e.wrap = false) : w.block.evi.toNat < w.block.evn.toNat - 1 := by
  refine lt_of_le_of_ne h.evi_le fun hc => ?_
  have hwrap := (QueueOk_wrap_iff h.queue h.evi_le).2 hc
  rw [entryAt_of_getElem? he, hrest] at hwrap
  cases hwrap

theorem unscheduled_commit {p : PortId} {c : PinId} {b : Block} (h : Unscheduled p c b) : Unscheduled p c b.commit := by
  unfold Block.commit
  cases hp : b.pend
  · exact h
  · exact ⟨fun ⟨k, hk, hpc⟩ => h.shadow hp k hk hpc, fun hno => by simp at hno⟩

theorem unscheduled_applyDue {frame : Nat} {p : PortId} {c : PinId} {w : Sweep} {e : Entry} (hsweep : SweepOk frame w)
    (he : w.block.evq[w.block.evi.toNat]? = some e) (h : Unscheduled p c w.block) :
    Unscheduled p c (applyDue frame e w).block ∧
      pinLevel (applyDue frame e w).block.ports p c = pinLevel w.block.ports p c := by
  unfold applyDue
  cases hwrap : e.wrap
  · have hother : ¬(p = e.port ∧ c = e.pin) := fun hpc =>
      h.active ⟨_, hsweep.evi_lt_marker he hwrap, by simp [entryAt_of_getElem? he, hpc]⟩
    exact ⟨⟨h.active, h.shadow⟩, by simp [applyRest, pinLevel_drive, hother]⟩
  · have hcommit : Unscheduled p c (Block.commit { w.block with fbase := w.block.fbase + tick16 frame }) :=
      unscheduled_commit ⟨h.active, h.shadow⟩
    refine ⟨⟨?_, ?_⟩, ?_⟩
    · simpa [applyWrap, Block.Drives] using hcommit.active
    · simp [applyWrap]
    · have hno : ¬ ({ Block.commit { w.block with fbase := w.block.fbase + tick16 frame } with
        evi := 0, phase := .active } : Block).Drives p c := hcommit.active
      simp only [if_true, applyWrap, enterFrame_ports]
      rw [pinLevel_doActive_other hno]
      simp

theorem service_pinLevel_of_unscheduled {frame : Nat} {b b' : Block} {p : PortId} {c : PinId} (h : BlockOk frame b)
    (hrun : b.run = true) (hfree : Unscheduled p c b) (hb : service frame b = some b') :
    pinLevel b'.ports p c = pinLevel b.ports p c := by
  obtain ⟨w, hw, rfl⟩ := service_eq_some hb
  have hstart : Unscheduled p c (startService b).block ∧ pinLevel (startService b).block.ports p c = pinLevel b.ports p c := by
    rw [startService_block]
    refine ⟨⟨hfree.active, hfree.shadow⟩, ?_⟩
    simp only
    split
    · exact pinLevel_doActive_other hfree.active
    · rfl
  obtain ⟨⟨-, -, hlevel⟩, -⟩ := serviceLoop_invariant
    (P := fun w => SweepOk frame w ∧ Unscheduled p c w.block ∧ pinLevel w.block.ports p c = pinLevel b.ports p c)
    (fun w e ⟨hsweep, hfree, hlevel⟩ he hd =>
      have hdue := unscheduled_applyDue hsweep he hfree
      ⟨sweepOk_applyDue hsweep he hd, hdue.1, hdue.2.trans hlevel⟩)
    _ _ _ ⟨sweepOk_startService h hrun, hstart⟩ hw
  exact hlevel

/-- Settles O40: `service_pinLevel_of_unscheduled`, and an offer that is not enabled writes nothing. -/
theorem serviceTouchesOnlyScheduledPins : Obligations.ServiceTouchesOnlyScheduledPins := by
  unfold Obligations.ServiceTouchesOnlyScheduledPins
  intro s t p c hok hs h hactive hshadow
  rcases block_of_step_service hs h with ⟨hi, hb, -⟩ | ⟨-, ht⟩
  · exact service_pinLevel_of_unscheduled hok (run_of_enabled hok hi) ⟨hactive, hshadow⟩ hb
  · rw [ht]

end Sys2Proof.Laws
end

section
/-! PROOFS. The pins of the running schedule (R156, R157, R162): the frame tick within the latency bound (R161), and the pins on
schedule after every step. -/

namespace Sys2Proof.Laws

open Sys2Proof.Machine

/-! ### The frame tick and the latency (R17, R161) -/

/-- The ticks of a sound queue do not fall up to the marker's (R30). -/
theorem tick_le_of_queueOk {frame : Nat} {q : Vector Entry 7} {n j k : Nat} (h : QueueOk frame q n) (hjk : j ≤ k)
    (hk : k ≤ n - 1) : (entryAt q j).tick.toNat ≤ (entryAt q k).tick.toNat := by
  rcases Nat.lt_or_ge k (n - 1) with hlt | hge
  · exact h.tick_mono j k hjk hlt
  · obtain rfl : k = n - 1 := le_antisymm hk hge
    rcases Nat.eq_or_lt_of_le hjk with rfl | hlt
    · exact le_rfl
    · rw [h.marker_tick]
      exact (h.tick_below j hlt).le

theorem queueOk_of_run {frame : Nat} {b : Block} (h : BlockOk frame b) (hrun : b.run = true) :
    QueueOk frame b.evq b.evn.toNat :=
  h.active (Nat.zero_lt_of_lt (h.run_evn hrun))

/-- While a request has waited no longer than 65535 - FRAME ticks, the frame tick has not passed the counter's range (R161). -/
theorem now_eq_awaited_add_latency {frame : Nat} {b : Block} (hframe : frame ≤ 65535) (h : BlockSound frame b)
    (hrun : b.run = true) (hphase : b.phase = .scheduled) (hlat : b.latency ≤ 65535 - frame) :
    b.now.toNat = b.awaited.tick.toNat + b.latency := by
  have hle := awaited_le_frame h.data hrun
  have hsum : b.now = b.armedFor + (b.cnt - b.ocr) := by
    simp only [Block.now, Block.armedFor]
    ring
  unfold Block.latency at hlat ⊢
  rw [hsum, h.sequencer.aimed hrun hphase, BitVec.toNat_add]
  omega

/-- Settles O39: `now_eq_awaited_add_latency`; the entries from the awaited one on are no earlier than it. -/
theorem frameTickIsTrueWithinLatencyBound : Obligations.FrameTickIsTrueWithinLatencyBound := by
  unfold Obligations.FrameTickIsTrueWithinLatencyBound
  intro s h hrun hphase hlat
  have hnow := now_eq_awaited_add_latency Config.frameTicks_le h hrun hphase hlat
  refine ⟨hnow, fun k hge hle _ => ?_⟩
  have hmono : s.block.awaited.tick.toNat ≤ (entryAt s.block.evq k).tick.toNat :=
    tick_le_of_queueOk (queueOk_of_run h.data hrun) hge hle
  omega

/-! ### The pins during a SERVICE step -/

/-- Where the pins of the active queue stand, and that what has been executed was due, at frame tick `now` (R156, R157). -/
structure PinsAt (now : Int) (b : Block) : Prop where
  executed : ∀ k, k < b.evi.toNat →
    pinLevel b.ports (entryAt b.evq k).port (entryAt b.evq k).pin = (entryAt b.evq k).level
  waiting  : ∀ k, b.evi.toNat ≤ k → k < b.evn.toNat - 1 →
    pinLevel b.ports (entryAt b.evq k).port (entryAt b.evq k).pin = !(entryAt b.evq k).level
  passed   : ∀ k, k < b.evi.toNat → ((entryAt b.evq k).tick.toNat : Int) ≤ now

/-- The initial drive puts every pin of a frame just begun at its active level, whatever it was before (R153, R157). -/
theorem pinsAt_enterFrame {frame : Nat} {now : Int} {b : Block} (hq : QueueOk frame b.evq b.evn.toNat) (hevi : b.evi = 0)
    (hphase : b.phase = .active) : PinsAt now (enterFrame b) := by
  constructor
  case executed => simp [hevi]
  case passed => simp [hevi]
  case waiting =>
    intro k _ hk
    rw [enterFrame_evq, enterFrame_ports, if_pos hphase]
    exact pinLevel_doActive_entry hq (by simpa using hk)

theorem pinsAt_applyWrap {frame : Nat} {now : Int} {w : Sweep}
    (hq : QueueOk frame (applyWrap frame w).block.evq (applyWrap frame w).block.evn.toNat) :
    PinsAt now (applyWrap frame w).block := by
  simp only [applyWrap] at hq ⊢
  exact pinsAt_enterFrame (by simpa only [enterFrame_evq, enterFrame_evn] using hq) rfl rfl

/-- Executing the awaited entry moves its pin, and by R30 no other one of the queue, to rest (R156). -/
theorem pinsAt_applyRest {frame : Nat} {w : Sweep} {e : Entry} (hsweep : SweepOk frame w)
    (he : w.block.evq[w.block.evi.toNat]? = some e) (hrest : e.wrap = false) (hd : isDue w.now e = true)
    (h : PinsAt w.now w.block) : PinsAt w.now (applyRest e w).block := by
  have hee := entryAt_of_getElem? he
  have hlt := hsweep.evi_lt_marker he hrest
  have hevi := evi_applyRest (e := e) hsweep.evi_lt
  have hother : ∀ k, k ≠ w.block.evi.toNat → k < w.block.evn.toNat - 1 →
      pinLevel (applyRest e w).block.ports (entryAt w.block.evq k).port (entryAt w.block.evq k).pin =
        pinLevel w.block.ports (entryAt w.block.evq k).port (entryAt w.block.evq k).pin := by
    intro k hne hk
    have hpins : ¬((entryAt w.block.evq k).port = e.port ∧ (entryAt w.block.evq k).pin = e.pin) := by
      rw [← hee]
      rcases Nat.lt_or_gt_of_ne hne with hbefore | hafter
      · exact hsweep.queue.pins_apart _ _ hbefore hlt
      · exact fun hc => hsweep.queue.pins_apart _ _ hafter hk ⟨hc.1.symm, hc.2.symm⟩
    simp only [applyRest, pinLevel_drive, if_neg hpins]
  constructor
  case executed =>
    intro k hk
    rw [hevi] at hk
    rcases Nat.lt_or_eq_of_le (Nat.le_of_lt_succ hk) with hbefore | rfl
    · exact (hother k hbefore.ne (hbefore.trans hlt)).trans (h.executed k hbefore)
    · simp [applyRest, hee, pinLevel_drive]
  case waiting =>
    intro k hge hk
    rw [hevi] at hge
    exact (hother k (by omega) hk).trans (h.waiting k (by omega) hk)
  case passed =>
    intro k hk
    rw [hevi] at hk
    rcases Nat.lt_or_eq_of_le (Nat.le_of_lt_succ hk) with hbefore | rfl
    · exact h.passed k hbefore
    · simpa [applyRest, hee] using isDue_iff.1 hd

theorem pinsAt_applyDue {frame : Nat} {w : Sweep} {e : Entry} (hsweep : SweepOk frame w)
    (he : w.block.evq[w.block.evi.toNat]? = some e) (hd : isDue w.now e = true) (h : PinsAt w.now w.block) :
    PinsAt (applyDue frame e w).now (applyDue frame e w).block := by
  have hnext := (sweepOk_applyDue hsweep he hd).queue
  unfold applyDue at hnext ⊢
  cases hwrap : e.wrap
  · exact pinsAt_applyRest (w := { w with missed := w.missed || isMissed w.arm e })
      ⟨hsweep.queue, hsweep.shadow, hsweep.evi_le, hsweep.phase, hsweep.now_eq⟩ he hwrap hd h
  · rw [hwrap] at hnext
    exact pinsAt_applyWrap hnext

/-- At the start of the step: as the schedule had them, or just driven active at the first service (R155, R160). -/
theorem pinsAt_startService {frame : Nat} {b : Block} (h : BlockSound frame b) (hp : PulsesOk b) (hrun : b.run = true) :
    PinsAt b.now.toNat (startService b).block := by
  cases hphase : b.phase with
  | active =>
    obtain ⟨-, hevi, -⟩ := h.sequencer.first hrun hphase
    have hq : QueueOk frame b.evq b.evn.toNat := queueOk_of_run h.data hrun
    exact pinsAt_enterFrame (b := b.takeInterrupt) hq hevi hphase
  | scheduled =>
    rw [startService_block, hphase]
    exact ⟨hp.executed hrun hphase, hp.waiting hrun hphase, fun k hk => Int.ofNat_le.2 (hp.passed hrun hphase k hk)⟩

theorem pulsesOk_service {frame : Nat} {b b' : Block} (h : BlockSound frame b) (hp : PulsesOk b) (hrun : b.run = true)
    (hb : service frame b = some b') : PulsesOk b' := by
  obtain ⟨-, -, -, -, -, -, -, -, -, hocf, -⟩ := service_frame hb
  obtain ⟨w, hw, rfl⟩ := service_eq_some hb
  obtain ⟨⟨hsweep, hpins⟩, -⟩ := serviceLoop_invariant
    (P := fun w => SweepOk frame w ∧ PinsAt w.now w.block)
    (fun w e ⟨hsweep, hpins⟩ he hd => ⟨sweepOk_applyDue hsweep he hd, pinsAt_applyDue hsweep he hd hpins⟩)
    _ _ _ ⟨sweepOk_startService h.data hrun, pinsAt_startService h hp hrun⟩ hw
  exact {
    executed := fun _ _ => hpins.executed
    waiting := fun _ _ => hpins.waiting
    passed := fun _ _ k hk => Int.ofNat_le.1 (hsweep.now_eq ▸ hpins.passed k hk)
    pending := fun _ _ hc => absurd (hocf.symm.trans hc) Bool.false_ne_true }

/-! ### The pins at a TICK -/

/-- A TICK of an unwrapped frame tick adds one to it (R43, R150). -/
theorem now_tick {b : Block} (h : b.now.toNat < 65535) : (tick b).now.toNat = b.now.toNat + 1 := by
  have hsucc : (tick b).now = b.now + 1 := by
    simp only [Block.now, tick_cnt, tick_fbase]
    ring
  rw [hsucc, BitVec.toNat_add]
  simp
  omega

/-- The frame tick does not leave its range at a TICK: the awaited entry is ahead, or its request is within the bound (R161). -/
theorem now_lt_of_latency {frame : Nat} {b : Block} (hframe : frame ≤ 65535) (h : BlockSound frame b) (hrun : b.run = true)
    (hphase : b.phase = .scheduled) (hlat : b.ocf = true → b.latency < 65535 - frame) : b.now.toNat < 65535 := by
  have hle := awaited_le_frame h.data hrun
  cases hocf : b.ocf
  · have := h.sequencer.ahead hrun hocf
    omega
  · have hbound := hlat hocf
    have := now_eq_awaited_add_latency hframe h hrun hphase hbound.le
    omega

theorem pulsesOk_tick {frame : Nat} {b : Block} (hframe : frame ≤ 65535) (h : BlockSound frame b) (hp : PulsesOk b)
    (hlat : b.ocf = true → b.latency < 65535 - frame) : PulsesOk (tick b) where
  executed := hp.executed
  waiting := hp.waiting
  passed hrun hphase k hk := by
    rw [now_tick (now_lt_of_latency hframe h hrun hphase hlat)]
    exact (hp.passed hrun hphase k hk).trans (Nat.le_succ _)
  pending hrun hphase hocf := by
    have hnow := now_tick (now_lt_of_latency hframe h hrun hphase hlat)
    rcases (ocf_tick_iff b).1 hocf with hbefore | hmatch
    · rw [hnow]
      exact (hp.pending hrun hphase hbefore).trans (Nat.le_succ _)
    · have hreached : (tick b).now = b.awaited.tick := by
        rw [← h.sequencer.aimed hrun hphase, Block.now, hmatch]
        rfl
      exact hreached ▸ le_rfl

/-! ### The pins at a HOST step -/

/-- A block on schedule stays so when only pins its queue does not drive change (R205). -/
theorem pulsesOk_of_same_pins {frame : Nat} {b : Block} {ports : Vector PortBits 4} (h : BlockOk frame b) (hp : PulsesOk b)
    (hsame : ∀ p c, b.Drives p c → pinLevel ports p c = pinLevel b.ports p c) : PulsesOk { b with ports := ports } where
  executed hrun hphase k hk :=
    (hsame _ _ ⟨k, hk.trans_le (h.run_evi hrun), rfl, rfl⟩).trans (hp.executed hrun hphase k hk)
  waiting hrun hphase k hge hk := (hsame _ _ ⟨k, hk, rfl, rfl⟩).trans (hp.waiting hrun hphase k hge hk)
  passed := hp.passed
  pending := hp.pending

/-- The block after the HOST step of a command is that of its reply. -/
theorem block_of_step_command {s t : State} {i : Instr} (ho : s.OffersCommand i) (h : step s = .next t) :
    t.block = (replyOf i s.block).block := by
  obtain ⟨w, hw, hd⟩ := ho
  rw [step_of_decode hw hd] at h
  obtain ⟨-, rfl⟩ := exec_eq_next.1 h
  simp

theorem pinLevel_setPort_of_same_bit {b : Block} {p q : PortId} {v : PortBits} {c : PinId}
    (h : q = p → v.getLsbD c.toNat = (b.portOf p).getLsbD c.toNat) :
    pinLevel (b.setPort p v).ports q c = pinLevel b.ports q c := by
  rw [pinLevel_setPort]
  split
  · next hqp => rw [h hqp, hqp]; rfl
  · rfl

/-- A GPIO command that spares the scheduled pins changes the level of none of them (R201 to R203, R205). -/
theorem pinLevel_of_spared {s t : State} {p q : PortId} {m : PortBits} {c : PinId} (hspare : s.SparesPins)
    (ho : s.OffersCommand (.gpioSet p m) ∨ s.OffersCommand (.gpioClr p m) ∨ s.OffersCommand (.gpioTgl p m))
    (h : step s = .next t) (hc : s.block.Drives q c) : pinLevel t.block.ports q c = pinLevel s.block.ports q c := by
  have hm : q = p → m.getLsbD c.toNat = false := fun hqp => hspare p m ho c (hqp ▸ hc)
  rcases ho with ho | ho | ho <;> rw [block_of_step_command ho h] <;> refine pinLevel_setPort_of_same_bit fun hqp => ?_
  · rw [BitVec.getLsbD_or, hm hqp, Bool.or_false]
  · rw [BitVec.getLsbD_and, BitVec.getLsbD_not, hm hqp, decide_eq_true c.isLt, Bool.not_false, Bool.and_true, Bool.and_true]
  · rw [BitVec.getLsbD_xor, hm hqp, Bool.xor_false]

/-- Every write of `BlockStep` keeps the pins on schedule; a GPIO write where it spares the pins the queue drives. -/
theorem pulsesOk_step {s : State} {b : Block} (h : BlockSound Config.frameTicks s.block) (hp : PulsesOk s.block)
    (hlat : s.nextEvent = .tick → s.block.ocf = true → s.block.latency < 65535 - Config.frameTicks)
    (hgpio : ∀ p m, s.OffersCommand (.gpioSet p m) ∨ s.OffersCommand (.gpioClr p m) ∨ s.OffersCommand (.gpioTgl p m) →
      ∀ q c, s.block.Drives q c → pinLevel b.ports q c = pinLevel s.block.ports q c)
    (hstep : BlockStep s b) : PulsesOk b := by
  cases hstep with
  | tick he _ => exact pulsesOk_tick Config.frameTicks_le h hp (hlat he)
  | service _ henabled hb => exact pulsesOk_service h hp (run_of_enabled h.data henabled) hb
  | gpio ho => exact pulsesOk_of_same_pins h.data hp (hgpio _ _ ho)
  | arm _ _ _ => constructor <;> (intro _ hphase; simp at hphase)
  | disarm _ _ => constructor <;> (intro hrun; simp at hrun)
  | _ => exact { hp with }

theorem pulsesOk_of_step {s t : State} (h : BlockSound Config.frameTicks s.block) (hp : PulsesOk s.block)
    (hspare : s.SparesPins)
    (hlat : s.nextEvent = .tick → s.block.ocf = true → s.block.latency < 65535 - Config.frameTicks)
    (hs : step s = .next t) : PulsesOk t.block :=
  pulsesOk_step h hp hlat (fun _ _ ho _ _ hc => pinLevel_of_spared hspare ho hs hc) (blockStep_of_step hs).2

/-- Settles O45: `pulsesOk_of_step`. -/
theorem everyStepKeepsPinsOnSchedule : Obligations.EveryStepKeepsPinsOnSchedule := by
  unfold Obligations.EveryStepKeepsPinsOnSchedule
  exact fun s t => pulsesOk_of_step

/-- With no request waiting, a scheduled pin is active exactly until the frame tick reaches its entry's (R162). -/
theorem pinLevel_of_pulsesOk {frame : Nat} {b : Block} (h : BlockSound frame b) (hp : PulsesOk b) (hrun : b.run = true)
    (hocf : b.ocf = false) {k : Nat} (hk : k < b.evn.toNat - 1) :
    pinLevel b.ports (entryAt b.evq k).port (entryAt b.evq k).pin =
      if b.now.toNat < (entryAt b.evq k).tick.toNat then !(entryAt b.evq k).level else (entryAt b.evq k).level := by
  have hphase : b.phase = .scheduled := by
    cases hc : b.phase with
    | active => simp [(h.sequencer.first hrun hc).1] at hocf
    | scheduled => rfl
  rcases Nat.lt_or_ge k b.evi.toNat with hdone | hwaits
  · rw [if_neg (hp.passed hrun hphase k hdone).not_gt, hp.executed hrun hphase k hdone]
  · have hahead := (h.sequencer.ahead hrun hocf).trans_le (tick_le_of_queueOk (queueOk_of_run h.data hrun) hwaits hk.le)
    rw [if_pos hahead, hp.waiting hrun hphase k hwaits hk]

/-- Settles O46: `pinLevel_of_pulsesOk` of the block after the step, which is sound (O44) and on schedule (O45). -/
theorem pulseLevelsAreExact : Obligations.PulseLevelsAreExact := by
  unfold Obligations.PulseLevelsAreExact
  intro s t h hp hspare hlat hs hrun hocf k hk
  exact pinLevel_of_pulsesOk (everyStepKeepsTheBlockSound s t h hs) (pulsesOk_of_step h hp hspare hlat hs) hrun hocf hk

end Sys2Proof.Laws
end

section
/-! PROOFS. What an enabled SERVICE step leaves (R155 to R159): the pair (EVI, OCR), the frame base, and the whole block after a
step that stays within the frame or ends at its wrap. -/

namespace Sys2Proof.Laws

open Sys2Proof.Machine

/-! ### The consistent pair (R47, R159) -/

theorem service_completes {frame : Nat} {b : Block} (hframe : 1 ≤ frame) (h : BlockOk frame b) (hrun : b.run = true) :
    ∃ b', service frame b = some b' := by
  obtain ⟨w, hw, -⟩ := serviceLoop_sound hframe h hrun
  exact ⟨_, service_of_loop hw⟩

theorem phase_of_service {frame : Nat} {b b' : Block} (hframe : 1 ≤ frame) (h : BlockOk frame b) (hrun : b.run = true)
    (hb : service frame b = some b') : b'.phase = .scheduled := by
  obtain ⟨w, rfl, hsweep, -⟩ := service_sound hframe h hrun hb
  exact hsweep.phase

/-- With no request pending the programmed instant lies 1 to FRAME ticks ahead of the counter (R159). -/
theorem compare_ahead {frame : Nat} {b : Block} (h : BlockSound frame b) (hrun : b.run = true) (hphase : b.phase = .scheduled)
    (hocf : b.ocf = false) : 1 ≤ (b.ocr - b.cnt).toNat ∧ (b.ocr - b.cnt).toNat ≤ frame := by
  have hle := awaited_le_frame h.data hrun
  have hahead := h.sequencer.ahead hrun hocf
  have hdiff : b.ocr - b.cnt = b.armedFor - b.now := by
    simp only [Block.now, Block.armedFor]
    ring
  rw [hdiff, h.sequencer.aimed hrun hphase, BitVec.toNat_sub]
  omega

/-- Settles O33: the block after the step is sound by `blockOk_service` and `sequencerOk_service`, so `compare_ahead` holds
of it. -/
theorem serviceLeavesConsistentPair : Obligations.ServiceLeavesConsistentPair := by
  unfold Obligations.ServiceLeavesConsistentPair
  intro s hlive h hs hi
  have hrun := run_of_enabled h hi
  obtain ⟨b, hb⟩ := service_completes one_le_frameTicks h hrun
  obtain ⟨-, -, -, -, hrun', -, -, -, -, hocf, -⟩ := service_frame hb
  rw [hrun] at hrun'
  have hsound : BlockSound Config.frameTicks b :=
    ⟨blockOk_service one_le_frameTicks h hrun hb, sequencerOk_service one_le_frameTicks h hrun hb⟩
  have hphase := phase_of_service one_le_frameTicks h hrun hb
  exact ⟨_, step_service hlive hs hi hb, hocf, hphase, hsound.sequencer.aimed hrun' hphase,
    hsound.sequencer.ahead hrun' hocf, compare_ahead hsound hrun' hphase hocf⟩

/-! ### The frame base moves on by whole frames (R157) -/

/-- The sweep has run through `m` whole frames of the step of `b`. -/
def FramesRun (frame : Nat) (b : Block) (m : Nat) (w : Sweep) : Prop :=
  w.now = b.now.toNat - m * frame ∧ w.block.fbase = b.fbase + BitVec.ofNat 16 (m * frame)

theorem framesRun_applyDue {frame m : Nat} {b : Block} {w : Sweep} (e : Entry) (h : FramesRun frame b m w) :
    ∃ m, FramesRun frame b m (applyDue frame e w) := by
  obtain ⟨hnow, hfbase⟩ := h
  unfold applyDue
  cases e.wrap
  · exact ⟨m, hnow, hfbase⟩
  · refine ⟨m + 1, ?_, ?_⟩
    · simp only [if_true, applyWrap, hnow]
      push_cast
      ring
    · simp only [if_true, applyWrap, enterFrame_fbase, Block.commit_fbase, hfbase, tick16, Nat.succ_mul, BitVec.ofNat_add,
        BitVec.add_assoc]

/-- A SERVICE step moves the frame base on by whole frames until less than a frame is left of the frame tick (R157, R159). -/
theorem service_framesRun {frame : Nat} {b b' : Block} (hframe : 1 ≤ frame) (h : BlockOk frame b) (hrun : b.run = true)
    (hb : service frame b = some b') :
    b'.now.toNat < frame ∧
      ∃ m, b.now.toNat = b'.now.toNat + m * frame ∧ b'.fbase = b.fbase + BitVec.ofNat 16 (m * frame) := by
  have hok := blockOk_service hframe h hrun hb
  obtain ⟨-, -, -, -, hrun', -, -, -, -, hocf, -⟩ := service_frame hb
  have hahead := (sequencerOk_service hframe h hrun hb).ahead (hrun'.trans hrun) hocf
  obtain ⟨w, hw, rfl⟩ := service_eq_some hb
  obtain ⟨⟨hsweep, m, hnow, hfbase⟩, -⟩ := serviceLoop_invariant
    (P := fun w => SweepOk frame w ∧ ∃ m, FramesRun frame b m w)
    (fun w e ⟨hsweep, _, hrun⟩ he hd => ⟨sweepOk_applyDue hsweep he hd, framesRun_applyDue e hrun⟩)
    _ _ _ ⟨sweepOk_startService h hrun, 0, by simp [FramesRun, startService]⟩ hw
  refine ⟨hahead.trans_le (awaited_le_frame hok (hrun'.trans hrun)), m, ?_, hfbase⟩
  have hfinal : (finishService w).now = w.block.now := rfl
  have := hsweep.now_eq
  rw [hfinal]
  omega

/-- Settles O37: `service_framesRun`; the frames run through and the tick left over are quotient and remainder. -/
theorem frameNeverDrifts : Obligations.FrameNeverDrifts := by
  unfold Obligations.FrameNeverDrifts
  intro s t h hs hi hstep
  obtain ⟨hlt, m, hnow, hfbase⟩ :=
    service_framesRun one_le_frameTicks h (run_of_enabled h hi) (service_of_step hs hi hstep).1
  have hpos : 0 < Config.frameTicks := one_le_frameTicks
  have hdiv : s.block.now.toNat / Config.frameTicks = m := by
    rw [hnow, Nat.add_mul_div_right _ _ hpos, Nat.div_eq_of_lt hlt, Nat.zero_add]
  refine ⟨?_, by rw [hdiv]; exact hfbase⟩
  rw [hnow, Nat.add_mul_mod_self_right, Nat.mod_eq_of_lt hlt]

/-! ### A SERVICE step within the frame (R156) -/

/-- Wherever the loop ends, `service` ends there. -/
theorem service_of_serviceLoop {frame n : Nat} {b : Block} {w : Sweep} (hframe : 1 ≤ frame) (h : BlockOk frame b)
    (hrun : b.run = true) (hw : serviceLoop frame n (startService b) = some w) : service frame b = some (finishService w) := by
  obtain ⟨w', hw', -⟩ := serviceLoop_sound hframe h hrun
  rw [service_of_loop hw', serviceLoop_unique hw hw']

/-- The loop executes the due entries from EVI up to the first one ahead, when that comes no later than the marker. -/
theorem serviceLoop_to_first_ahead {frame j : Nat} {w : Sweep} (hq : QueueOk frame w.block.evq w.block.evn.toNat)
    (hge : w.block.evi.toNat ≤ j) (hle : j ≤ w.block.evn.toNat - 1)
    (hdue : ∀ k, w.block.evi.toNat ≤ k → k < j → ((entryAt w.block.evq k).tick.toNat : Int) ≤ w.now)
    (hahead : w.now < ((entryAt w.block.evq j).tick.toNat : Int)) :
    serviceLoop frame (1 + (j - w.block.evi.toNat)) w = some (afterRest (j - w.block.evi.toNat) w) := by
  have hseven := hq.le_seven
  have htwo := hq.two_le
  have hevi : (afterRest (j - w.block.evi.toNat) w).block.evi.toNat = j := by
    simp only [afterRest, BitVec.toNat_ofNat]
    omega
  rw [serviceLoop_rest _ _ _ (by omega) fun k hk hk' =>
    ⟨hq.rest_wrap k (by omega), isDue_iff.2 (hdue k hk (by omega))⟩]
  exact serviceLoop_end 0 (by omega) (by rw [hevi]; exact hahead)

/-- The drives of executed entries `ks` of a queue, in order, each to its level (R156). -/
def restDrive (q : Vector Entry 7) (ks : List Nat) (ports : Vector PortBits 4) : Vector PortBits 4 :=
  (ks.map (entryAt q)).foldl (fun ports e => drive ports e.port e.pin e.level) ports

/-- The active drive of a queue of `n` meaningful entries (R153); `doActive_ports_eq` ties it to `doActive`. -/
def activeDrive (q : Vector Entry 7) (n : Nat) (ports : Vector PortBits 4) : Vector PortBits 4 :=
  ((List.range (n - 1)).map (entryAt q)).foldl (fun ports e => drive ports e.port e.pin (!e.level)) ports

theorem doActive_ports_eq (b : Block) : (doActive b).ports = activeDrive b.evq b.evn.toNat b.ports := by
  rw [doActive_ports, scheduled_eq_map]
  rfl

/-- The ports at the start of the loop: those before the step, or after the initial drive where it was due (R155, R160). -/
def startPorts (b : Block) : Vector PortBits 4 := if b.phase = .active then (doActive b).ports else b.ports

/-- Some entry of a queue at the places `ks` lies beyond the compare's tick `arm` (R158). -/
def anyMissed (arm : Nat) (q : Vector Entry 7) (ks : List Nat) : Bool :=
  ks.any fun k => decide (arm < (entryAt q k).tick.toNat)

theorem any_isMissed (arm : Nat) (q : Vector Entry 7) (ks : List Nat) :
    (ks.any fun k => isMissed arm (entryAt q k)) = anyMissed arm q ks := by
  simp only [isMissed, Int.ofNat_lt]
  rfl

/-- A SERVICE step that reaches entry `j` and no marker: the whole block after it (R155, R156, R158, R159). -/
theorem service_within_frame {frame j : Nat} {b : Block} (hframe : 1 ≤ frame) (h : BlockOk frame b) (hrun : b.run = true)
    (hge : b.evi.toNat ≤ j) (hle : j ≤ b.evn.toNat - 1)
    (hdue : ∀ k, b.evi.toNat ≤ k → k < j → (entryAt b.evq k).tick.toNat ≤ b.now.toNat)
    (hahead : b.now.toNat < (entryAt b.evq j).tick.toNat) :
    service frame b = some { b with
      ocf := false
      phase := .scheduled
      evi := BitVec.ofNat 3 j
      ocr := b.fbase + (entryAt b.evq j).tick
      ports := restDrive b.evq (List.range' b.evi.toNat (j - b.evi.toNat)) (startPorts b)
      ovr := ovrAfter b.ovr (anyMissed b.armedFor.toNat b.evq (List.range' b.evi.toNat (j - b.evi.toNat))) } := by
  have hq := queueOk_of_run h hrun
  have hj : j % 8 = j := by have := hq.le_seven; omega
  have hloop := serviceLoop_to_first_ahead (w := startService b) (j := j) (frame := frame)
  simp only [startService_block] at hloop
  rw [service_of_serviceLoop hframe h hrun (hloop hq hge hle (fun k hk hk' => Int.ofNat_le.2 (hdue k hk hk'))
    (Int.ofNat_lt.2 hahead))]
  simp only [finishService, afterRest, startService_block, Nat.add_sub_cancel' hge, BitVec.toNat_ofNat, List.any_map, hj]
  simp [startService, Function.comp_def, any_isMissed, restDrive, startPorts]

/-- Settles O35: `service_within_frame`, by `step_service`. -/
theorem serviceAppliesDueEntries : Obligations.ServiceAppliesDueEntries := by
  unfold Obligations.ServiceAppliesDueEntries
  intro s j hlive h hs hi hge hle hdue hahead
  rw [step_service hlive hs hi (service_within_frame one_le_frameTicks h (run_of_enabled h hi) hge hle hdue hahead)]
  rfl

/-! ### A SERVICE step through the end of a frame (R157) -/

/-- The queue of the next frame: the pending one, if there is one (R157). -/
def nextQueue (b : Block) : Vector Entry 7 := if b.pend then b.shq else b.evq

/-- The length of that queue (R157). -/
def nextLength (b : Block) : BitVec 3 := if b.pend then b.shn else b.evn

theorem queueOk_next {frame : Nat} {b : Block} (h : BlockOk frame b) (hrun : b.run = true) :
    QueueOk frame (nextQueue b) (nextLength b).toNat := by
  unfold nextQueue nextLength
  cases hp : b.pend
  · exact queueOk_of_run h hrun
  · exact h.shadow (Nat.zero_lt_of_lt (h.pend_shn hp))

theorem nextQueue_startService (b : Block) : nextQueue (startService b).block = nextQueue b := by
  rw [startService_block]
  rfl

theorem nextLength_startService (b : Block) : nextLength (startService b).block = nextLength b := by
  rw [startService_block]
  rfl

/-- Executing a marker (R157): the base moved on, the pending queue committed, the new frame's pins driven active. -/
theorem applyWrap_eq (frame : Nat) (w : Sweep) : applyWrap frame w = { w with
    block := { w.block with
      evq := nextQueue w.block
      evn := nextLength w.block
      pend := false
      evi := 0
      phase := .scheduled
      fbase := w.block.fbase + tick16 frame
      ports := activeDrive (nextQueue w.block) (nextLength w.block).toNat w.block.ports }
    now := w.now - frame
    arm := w.arm - frame } := by
  cases hp : w.block.pend <;>
    simp [applyWrap, enterFrame, doActive, scheduled_eq_map, Block.commit, nextQueue, nextLength, activeDrive, hp]

/-- The sweep after executing the entries left of a frame and its marker (R156, R157). -/
def afterFrame (frame : Nat) (w : Sweep) : Sweep where
  block := { w.block with
    evq := nextQueue w.block
    evn := nextLength w.block
    pend := false
    evi := 0
    phase := .scheduled
    fbase := w.block.fbase + tick16 frame
    ports := activeDrive (nextQueue w.block) (nextLength w.block).toNat
      (restDrive w.block.evq (List.range' w.block.evi.toNat (w.block.evn.toNat - w.block.evi.toNat - 1)) w.block.ports) }
  now := w.now - frame
  arm := w.arm - frame
  missed := w.missed || (List.range' w.block.evi.toNat (w.block.evn.toNat - w.block.evi.toNat)).any fun k =>
    isMissed w.arm (entryAt w.block.evq k)

theorem applyDue_marker {frame m : Nat} {w : Sweep} (hm : w.block.evn.toNat = w.block.evi.toNat + m + 1)
    (hwrap : (entryAt w.block.evq (w.block.evi.toNat + m)).wrap = true) :
    applyDue frame (entryAt w.block.evq (w.block.evi.toNat + m)) (afterRest m w) = afterFrame frame w := by
  have hcount : w.block.evn.toNat - w.block.evi.toNat = m + 1 := by omega
  simp [applyDue, hwrap, applyWrap_eq, afterRest, afterFrame, hcount, List.range'_concat, List.any_map, Function.comp_def,
    nextQueue, nextLength, restDrive, Bool.or_assoc]

/-- The loop runs to the end of the frame, when the marker is due, in one pass for each entry left of the queue. -/
theorem serviceLoop_frame {frame : Nat} {w : Sweep} (n : Nat) (hq : QueueOk frame w.block.evq w.block.evn.toNat)
    (hevi : w.block.evi.toNat ≤ w.block.evn.toNat - 1) (hlate : (frame : Int) ≤ w.now) :
    serviceLoop frame (n + (w.block.evn.toNat - w.block.evi.toNat)) w = serviceLoop frame n (afterFrame frame w) := by
  have hseven := hq.le_seven
  have htwo := hq.two_le
  obtain ⟨m, hm⟩ : ∃ m, w.block.evn.toNat = w.block.evi.toNat + m + 1 :=
    ⟨w.block.evn.toNat - 1 - w.block.evi.toNat, by omega⟩
  have hlast : w.block.evn.toNat - 1 = w.block.evi.toNat + m := by omega
  have hcount : n + (w.block.evn.toNat - w.block.evi.toNat) = n + 1 + m := by omega
  have hmarker : (afterRest m w).block.evi.toNat = w.block.evi.toNat + m := by
    simp only [afterRest, BitVec.toNat_ofNat]
    omega
  have hwrap := hq.marker_wrap
  have htick := hq.marker_tick
  rw [hlast] at hwrap htick
  rw [hcount, serviceLoop_rest m (n + 1) w (by omega) fun k _ hk =>
      ⟨hq.rest_wrap k (by omega), isDue_iff.2 (by have := hq.tick_below k (by omega); omega)⟩,
    serviceLoop_due n (by omega) (by rw [hmarker]; simp only [afterRest]; omega), hmarker]
  exact congrArg _ (applyDue_marker hm hwrap)

/-- The sweep of a step that has executed the marker once (R157), from the block before the step. -/
theorem afterFrame_startService (frame : Nat) (b : Block) : afterFrame frame (startService b) = {
    block := { b with
      evq := nextQueue b
      evn := nextLength b
      pend := false
      ocf := false
      evi := 0
      phase := .scheduled
      fbase := b.fbase + tick16 frame
      ports := activeDrive (nextQueue b) (nextLength b).toNat
        (restDrive b.evq (List.range' b.evi.toNat (b.evn.toNat - b.evi.toNat - 1)) (startPorts b)) }
    now := b.now.toNat - frame
    arm := b.armedFor.toNat - frame
    missed := anyMissed b.armedFor.toNat b.evq (List.range' b.evi.toNat (b.evn.toNat - b.evi.toNat)) } := by
  simp only [afterFrame, startService_block]
  simp [startService, any_isMissed, nextQueue, nextLength, startPorts]

theorem serviceLoop_first_wrap {frame : Nat} {b : Block} (n : Nat) (h : BlockOk frame b) (hrun : b.run = true)
    (hlate : frame ≤ b.now.toNat) :
    serviceLoop frame (n + (b.evn.toNat - b.evi.toNat)) (startService b) =
      serviceLoop frame n (afterFrame frame (startService b)) := by
  have hloop := serviceLoop_frame (w := startService b) (frame := frame) n
  simp only [startService_block] at hloop
  exact hloop (queueOk_of_run h hrun) (h.run_evi hrun) (Int.ofNat_le.2 hlate)

/-- A SERVICE step that executes the marker and nothing of the new frame: the whole block after it (R157, R158). -/
theorem service_one_wrap {frame : Nat} {b : Block} (hframe : 1 ≤ frame) (h : BlockOk frame b) (hrun : b.run = true)
    (hlate : frame ≤ b.now.toNat) (hahead : b.now.toNat - frame < (entryAt (nextQueue b) 0).tick.toNat) :
    service frame b = some { b with
      evq := nextQueue b
      evn := nextLength b
      pend := false
      ocf := false
      phase := .scheduled
      evi := 0
      fbase := b.fbase + tick16 frame
      ocr := b.fbase + tick16 frame + (entryAt (nextQueue b) 0).tick
      ports := activeDrive (nextQueue b) (nextLength b).toNat
        (restDrive b.evq (List.range' b.evi.toNat (b.evn.toNat - b.evi.toNat - 1)) (startPorts b))
      ovr := ovrAfter b.ovr
        (anyMissed b.armedFor.toNat b.evq (List.range' b.evi.toNat (b.evn.toNat - b.evi.toNat))) } := by
  have hend : serviceLoop frame 1 (afterFrame frame (startService b)) = some (afterFrame frame (startService b)) := by
    have hnow : (b.now.toNat : Int) - frame < (entryAt (nextQueue b) 0).tick.toNat := by omega
    rw [afterFrame_startService]
    exact serviceLoop_end 0 (Nat.zero_lt_succ 6) hnow
  rw [service_of_serviceLoop hframe h hrun ((serviceLoop_first_wrap 1 h hrun hlate).trans hend), afterFrame_startService]
  rfl

/-- Settles O36: `service_one_wrap`, by `step_service`. -/
theorem serviceWrapsTheFrame : Obligations.ServiceWrapsTheFrame := by
  unfold Obligations.ServiceWrapsTheFrame
  intro s hlive h hs hi _ _ _ _ _ hlate hahead
  rw [step_service hlive hs hi (service_one_wrap one_le_frameTicks h (run_of_enabled h hi) hlate hahead)]
  rfl

end Sys2Proof.Laws
end

section
/-! PROOFS. SERVICE steps late by any number of frames (R155 to R159): the whole block after them, and the missed events (R158). -/

namespace Sys2Proof.Laws

open Sys2Proof.Machine

/-! ### Whole frames that pass within one step (R157) -/

theorem pinLevel_restDrive_other {b : Block} {ks : List Nat} {p : PortId} {c : PinId} (h : ¬ b.Drives p c)
    (hks : ∀ k ∈ ks, k < b.evn.toNat - 1) (ports : Vector PortBits 4) :
    pinLevel (restDrive b.evq ks ports) p c = pinLevel ports p c := by
  refine pinLevel_foldl_drive_other _ p c _ ports fun e he hpc => ?_
  obtain ⟨k, hk, rfl⟩ := List.mem_map.1 he
  exact h ⟨k, hks k hk, hpc⟩

/-- The active drive forgets the levels its own pins had. -/
theorem doActive_congr {frame : Nat} {b : Block} {ports : Vector PortBits 4} (hq : QueueOk frame b.evq b.evn.toNat)
    (h : ∀ p c, ¬ b.Drives p c → pinLevel ports p c = pinLevel b.ports p c) :
    (doActive { b with ports := ports }).ports = (doActive b).ports := by
  refine ports_ext fun p c => ?_
  by_cases hpc : b.Drives p c
  · obtain ⟨k, hk, rfl, rfl⟩ := hpc
    exact (pinLevel_doActive_entry (b := { b with ports := ports }) hq hk).trans (pinLevel_doActive_entry hq hk).symm
  · rw [pinLevel_doActive_other hpc, ← h p c hpc]
    exact pinLevel_doActive_other (b := { b with ports := ports }) hpc

theorem doActive_doActive {frame : Nat} {b : Block} (hq : QueueOk frame b.evq b.evn.toNat) :
    (doActive (doActive b)).ports = (doActive b).ports :=
  doActive_congr hq fun _ _ => pinLevel_doActive_other

/-- A sweep at tick 0 of a frame it has just begun: every pin active, nothing pending, and the compare's tick behind it, so that
every entry of the frame would be a missed one (R157, R158). -/
structure AtFrameStart (frame : Nat) (w : Sweep) : Prop where
  queue  : QueueOk frame w.block.evq w.block.evn.toNat
  pend   : w.block.pend = false
  evi    : w.block.evi = 0
  phase  : w.block.phase = .scheduled
  arm_le : w.arm ≤ 0
  active : (doActive w.block).ports = w.block.ports

theorem AtFrameStart.toNat_evi {frame : Nat} {w : Sweep} (h : AtFrameStart frame w) : w.block.evi.toNat = 0 := by
  rw [h.evi]
  rfl

/-- The block after the marker, as the active drive makes it. -/
theorem afterFrame_block (frame : Nat) (w : Sweep) : (afterFrame frame w).block = doActive { (afterFrame frame w).block with
    ports := restDrive w.block.evq (List.range' w.block.evi.toNat (w.block.evn.toNat - w.block.evi.toNat - 1))
      w.block.ports } := by
  simp only [doActive, scheduled_eq_map]
  rfl

theorem atFrameStart_afterFrame {frame : Nat} {w : Sweep} (hq : QueueOk frame (nextQueue w.block) (nextLength w.block).toNat)
    (harm : w.arm ≤ frame) : AtFrameStart frame (afterFrame frame w) where
  queue := hq
  pend := rfl
  evi := rfl
  phase := rfl
  arm_le := Int.sub_nonpos_of_le harm
  active := by rw [afterFrame_block]; exact doActive_doActive hq

/-- Every entry of a frame that begins behind the compare's tick is missed. -/
theorem AtFrameStart.isMissed {frame k : Nat} {w : Sweep} (h : AtFrameStart frame w) (hk : k < w.block.evn.toNat - 1) :
    isMissed w.arm (entryAt w.block.evq k) = true := by
  have hpos := h.queue.tick_pos k hk
  have harm := h.arm_le
  simp only [Machine.isMissed, decide_eq_true_eq]
  omega

/-- The drives of a whole frame leave the pins as they were at its start. -/
theorem AtFrameStart.activeDrive_restDrive {frame : Nat} {w : Sweep} (h : AtFrameStart frame w) {ks : List Nat}
    (hks : ∀ k ∈ ks, k < w.block.evn.toNat - 1) :
    activeDrive w.block.evq w.block.evn.toNat (restDrive w.block.evq ks w.block.ports) = w.block.ports := by
  calc activeDrive w.block.evq w.block.evn.toNat (restDrive w.block.evq ks w.block.ports)
    _ = (doActive { w.block with ports := restDrive w.block.evq ks w.block.ports }).ports := by rw [doActive_ports_eq]
    _ = (doActive w.block).ports := doActive_congr h.queue fun _ _ hno => pinLevel_restDrive_other hno hks _
    _ = w.block.ports := h.active

/-- The sweep `m` whole frames later: its pins are back where they were, and any frame run through was missed. -/
def skipFrames (frame m : Nat) (w : Sweep) : Sweep where
  block := { w.block with fbase := w.block.fbase + BitVec.ofNat 16 (m * frame) }
  now := w.now - m * frame
  arm := w.arm - m * frame
  missed := w.missed || decide (0 < m)

theorem afterFrame_eq_skipFrames {frame : Nat} {w : Sweep} (h : AtFrameStart frame w) :
    afterFrame frame w = skipFrames frame 1 w := by
  have htwo := h.queue.two_le
  have hqueue : nextQueue w.block = w.block.evq := by simp [nextQueue, h.pend]
  have hlength : nextLength w.block = w.block.evn := by simp [nextLength, h.pend]
  have hports := h.activeDrive_restDrive (ks := List.range' 0 (w.block.evn.toNat - 1)) fun k hk => by
    rw [List.mem_range'_1] at hk
    omega
  have hmissed : ((List.range' 0 w.block.evn.toNat).any fun k => isMissed w.arm (entryAt w.block.evq k)) = true :=
    List.any_eq_true.2 ⟨0, by rw [List.mem_range'_1]; omega, h.isMissed (by omega)⟩
  simp only [afterFrame, skipFrames, hqueue, hlength, h.toNat_evi, Nat.sub_zero, hports, hmissed]
  simp [h.pend, h.evi, h.phase, tick16]

theorem AtFrameStart.skipFrames {frame : Nat} {w : Sweep} (m : Nat) (h : AtFrameStart frame w) :
    AtFrameStart frame (skipFrames frame m w) where
  queue := h.queue
  pend := h.pend
  evi := h.evi
  phase := h.phase
  arm_le := by
    have := h.arm_le
    simp only [Laws.skipFrames]
    exact Int.sub_nonpos_of_le (this.trans (by positivity))
  active := h.active

theorem skipFrames_succ (frame m : Nat) (w : Sweep) :
    skipFrames frame m (skipFrames frame 1 w) = skipFrames frame (m + 1) w := by
  have hfbase : w.block.fbase + BitVec.ofNat 16 (1 * frame) + BitVec.ofNat 16 (m * frame) =
      w.block.fbase + BitVec.ofNat 16 ((m + 1) * frame) := by
    rw [BitVec.add_assoc, ← BitVec.ofNat_add, ← Nat.add_mul, Nat.add_comm 1 m]
  have hback : ∀ x : Int, x - (1 : Nat) * frame - m * frame = x - (m + 1 : Nat) * frame := fun x => by
    push_cast
    ring
  simp only [skipFrames, hfbase, hback]
  simp

/-- The loop runs through `m` whole frames when the frame tick covers them. -/
theorem serviceLoop_skipFrames {frame : Nat} : ∀ (m n : Nat) (w : Sweep), AtFrameStart frame w → (m * frame : Int) ≤ w.now →
    serviceLoop frame (n + m * w.block.evn.toNat) w = serviceLoop frame n (skipFrames frame m w)
  | 0, n, w, _, _ => by simp [skipFrames]
  | m + 1, n, w, h, hlate => by
    have hpos : (0 : Int) ≤ m * frame := by positivity
    rw [Nat.cast_succ, add_mul, one_mul] at hlate
    have hfirst : (frame : Int) ≤ w.now := by omega
    have hframe := serviceLoop_frame (n + m * w.block.evn.toNat) h.queue (by simp [h.toNat_evi]) hfirst
    rw [h.toNat_evi, Nat.sub_zero, afterFrame_eq_skipFrames h] at hframe
    have hrest := serviceLoop_skipFrames m n (skipFrames frame 1 w) (h.skipFrames 1)
      (by simp only [skipFrames]; push_cast; omega)
    rw [Nat.succ_mul, ← Nat.add_assoc, hframe]
    exact hrest.trans (by rw [skipFrames_succ])

/-! ### A SERVICE step late by any number of frames (R155 to R159) -/

/-- Of the entries executed after such a start each one is missed. -/
theorem AtFrameStart.any_isMissed {frame j : Nat} {w : Sweep} (h : AtFrameStart frame w) (hj : j ≤ w.block.evn.toNat - 1) :
    ((List.range j).any fun k => Machine.isMissed w.arm (entryAt w.block.evq k)) = decide (0 < j) := by
  rcases Nat.eq_zero_or_pos j with rfl | hpos
  · rfl
  · rw [decide_eq_true hpos]
    exact List.any_eq_true.2 ⟨0, List.mem_range.2 hpos, h.isMissed (by omega)⟩

theorem armedFor_le_frame {frame : Nat} {b : Block} (h : BlockSound frame b) (hrun : b.run = true) :
    b.armedFor.toNat ≤ frame := by
  cases hphase : b.phase with
  | active =>
    obtain ⟨-, -, hocr⟩ := h.sequencer.first hrun hphase
    simp [Block.armedFor, hocr]
  | scheduled =>
    rw [h.sequencer.aimed hrun hphase]
    exact awaited_le_frame h.data hrun

theorem atFrameStart_first_wrap {frame : Nat} {b : Block} (h : BlockSound frame b) (hrun : b.run = true) :
    AtFrameStart frame (afterFrame frame (startService b)) := by
  refine atFrameStart_afterFrame ?_ (Int.ofNat_le.2 (armedFor_le_frame h hrun))
  rw [nextQueue_startService, nextLength_startService]
  exact queueOk_next h.data hrun

/-- The loop of a step late by `m + 1` frames: to the end of the old frame, through `m` frames, and to the first entry ahead. -/
theorem serviceLoop_late {frame j m r : Nat} {b : Block} (h : BlockSound frame b) (hrun : b.run = true)
    (hnow : b.now.toNat = r + (m + 1) * frame) (hle : j ≤ (nextLength b).toNat - 1)
    (hdue : ∀ k, k < j → (entryAt (nextQueue b) k).tick.toNat ≤ r) (hahead : r < (entryAt (nextQueue b) j).tick.toNat) :
    ∃ n, serviceLoop frame n (startService b) = some (afterRest j (skipFrames frame m (afterFrame frame (startService b)))) := by
  have hstart := atFrameStart_first_wrap h hrun
  have htick : (afterFrame frame (startService b)).now = r + m * frame := by
    simp only [afterFrame_startService, hnow]
    push_cast
    ring
  generalize hw : afterFrame frame (startService b) = w at hstart htick ⊢
  have hevq : w.block.evq = nextQueue b := by rw [← hw, afterFrame_startService]
  have hevn : w.block.evn = nextLength b := by rw [← hw, afterFrame_startService]
  have hwrap := fun n => serviceLoop_first_wrap (frame := frame) n h.data hrun (by rw [hnow, Nat.succ_mul]; omega)
  simp only [hw] at hwrap
  have hskip := fun n => serviceLoop_skipFrames m n w hstart (by omega)
  have hlater := hstart.skipFrames m
  have hend := serviceLoop_to_first_ahead (frame := frame) (w := skipFrames frame m w) (j := j) hlater.queue
    (by simp [hlater.toNat_evi]) (hevn ▸ hle)
    (fun k _ hk => by
      have := hdue k hk
      simp only [skipFrames, htick, hevq]
      omega)
    (by simp only [skipFrames, htick, hevq]; omega)
  rw [hlater.toNat_evi, Nat.sub_zero] at hend
  exact ⟨_, (hwrap _).trans ((hskip _).trans hend)⟩

/-- An entry of a new frame is missed exactly if one is executed: after the `m`-th further frame, or before entry `j` (R158). -/
theorem first_entry_due_iff {frame j m r : Nat} {q : Vector Entry 7} {n : Nat} (hq : QueueOk frame q n)
    (hdue : ∀ k, k < j → (entryAt q k).tick.toNat ≤ r) (hahead : r < (entryAt q j).tick.toNat) :
    (entryAt q 0).tick.toNat ≤ r + m * frame ↔ 0 < m ∨ 0 < j := by
  have htwo := hq.two_le
  constructor
  · intro hle
    by_contra hnone
    obtain ⟨rfl, rfl⟩ : m = 0 ∧ j = 0 := by omega
    omega
  · rintro (hm | hj)
    · have hbelow := hq.tick_below 0 (by omega)
      have := Nat.le_mul_of_pos_left frame hm
      omega
    · have := hdue 0 hj
      omega

/-- A SERVICE step late by any number of frames: the whole block after it (R155 to R159). -/
theorem service_late {frame j : Nat} {b : Block} (hframe : 1 ≤ frame) (h : BlockSound frame b) (hrun : b.run = true)
    (hlate : frame ≤ b.now.toNat) (hle : j ≤ (nextLength b).toNat - 1)
    (hdue : ∀ k, k < j → (entryAt (nextQueue b) k).tick.toNat ≤ b.now.toNat % frame)
    (hahead : b.now.toNat % frame < (entryAt (nextQueue b) j).tick.toNat) :
    service frame b = some { b with
      evq := nextQueue b
      evn := nextLength b
      pend := false
      ocf := false
      phase := .scheduled
      evi := BitVec.ofNat 3 j
      fbase := b.fbase + BitVec.ofNat 16 (b.now.toNat / frame * frame)
      ocr := b.fbase + BitVec.ofNat 16 (b.now.toNat / frame * frame) + (entryAt (nextQueue b) j).tick
      ports := restDrive (nextQueue b) (List.range j) (activeDrive (nextQueue b) (nextLength b).toNat
        (restDrive b.evq (List.range' b.evi.toNat (b.evn.toNat - b.evi.toNat - 1)) (startPorts b)))
      ovr := ovrAfter b.ovr
        (anyMissed b.armedFor.toNat b.evq (List.range' b.evi.toNat (b.evn.toNat - b.evi.toNat)) ||
          decide ((entryAt (nextQueue b) 0).tick.toNat ≤ b.now.toNat - frame)) } := by
  obtain ⟨m, hm⟩ : ∃ m, b.now.toNat / frame = m + 1 :=
    Nat.exists_eq_succ_of_ne_zero (Nat.div_pos hlate hframe).ne'
  have hnow : b.now.toNat = b.now.toNat % frame + (m + 1) * frame := by rw [← hm, Nat.mul_comm, Nat.mod_add_div]
  have hq := queueOk_next h.data hrun
  have hj : j % 8 = j := by have := hq.le_seven; omega
  obtain ⟨n, hloop⟩ := serviceLoop_late h hrun hnow hle hdue hahead
  rw [service_of_serviceLoop hframe h.data hrun hloop]
  have hnew : (decide (0 < m) || decide (0 < j)) = decide ((entryAt (nextQueue b) 0).tick.toNat ≤ b.now.toNat - frame) := by
    have hleft : b.now.toNat - frame = b.now.toNat % frame + m * frame := by rw [Nat.succ_mul] at hnow; omega
    rw [← Bool.decide_or, hleft]
    exact decide_eq_decide.2 (first_entry_due_iff hq hdue hahead).symm
  have hfbase : b.fbase + tick16 frame + BitVec.ofNat 16 (m * frame) =
      b.fbase + BitVec.ofNat 16 (b.now.toNat / frame * frame) := by
    rw [hm, Nat.succ_mul, Nat.add_comm, BitVec.ofNat_add, BitVec.add_assoc]
    rfl
  have hmissed := ((atFrameStart_first_wrap h hrun).skipFrames m).any_isMissed (j := j) (by
    simpa only [skipFrames, afterFrame_startService] using hle)
  simp only [skipFrames, afterFrame_startService] at hmissed
  have hzero : (0 : BitVec 3).toNat = 0 := rfl
  simp only [finishService, afterRest, skipFrames, afterFrame_startService, hzero, Nat.zero_add, BitVec.toNat_ofNat,
    Nat.reducePow, hj, hfbase, List.any_map, Function.comp_def, ← List.range_eq_range', hmissed, Bool.or_assoc, hnew]
  rfl

/-- Settles O58: `service_late` for the block, `step_service` for the machine. -/
theorem lateServiceRunsThroughFrames : Obligations.LateServiceRunsThroughFrames := by
  unfold Obligations.LateServiceRunsThroughFrames
  refine ⟨?_, fun s b hlive hs hi hb => step_service hlive hs hi hb⟩
  intro frame b j htwo _ h hi _ _ _ _ _ _ _ _ hlate hle hdue hahead
  exact service_late (Nat.le_of_succ_le htwo) h (run_of_enabled h.data hi) hlate hle hdue hahead

/-! ### Missed events (R158) -/

/-- A frame tick below the marker's has a first entry ahead of it, from any place of a sound queue on. -/
theorem exists_first_ahead {frame r i : Nat} {q : Vector Entry 7} {n : Nat} (hq : QueueOk frame q n) (hr : r < frame)
    (hi : i ≤ n - 1) : ∃ j, i ≤ j ∧ j ≤ n - 1 ∧ (∀ k, i ≤ k → k < j → (entryAt q k).tick.toNat ≤ r) ∧
      r < (entryAt q j).tick.toNat := by
  have hmarker : i ≤ n - 1 ∧ r < (entryAt q (n - 1)).tick.toNat := ⟨hi, by rw [hq.marker_tick]; exact hr⟩
  have hex : ∃ j, i ≤ j ∧ r < (entryAt q j).tick.toNat := ⟨_, hmarker⟩
  obtain ⟨hge, hahead⟩ := Nat.find_spec hex
  exact ⟨Nat.find hex, hge, Nat.find_min' hex hmarker,
    fun k hik hk => Nat.le_of_not_lt fun hc => Nat.find_min hex hk ⟨hik, hc⟩, hahead⟩

theorem anyMissed_range'_iff {arm i m : Nat} {q : Vector Entry 7} :
    anyMissed arm q (List.range' i m) = true ↔ ∃ k, i ≤ k ∧ k < i + m ∧ arm < (entryAt q k).tick.toNat := by
  simp only [anyMissed, List.any_eq_true, List.mem_range'_1, decide_eq_true_eq, and_assoc]

/-- The step of `b` applies a missed event: a due entry of the frame in progress beyond the compare's tick, or any entry of a
new frame (R158). -/
def MissesEvent (frame : Nat) (b : Block) : Prop :=
  (∃ k, b.evi.toNat ≤ k ∧ k ≤ b.evn.toNat - 1 ∧ (entryAt b.evq k).tick.toNat ≤ b.now.toNat ∧
    b.armedFor.toNat < (entryAt b.evq k).tick.toNat) ∨
  (frame ≤ b.now.toNat ∧ (entryAt (nextQueue b) 0).tick.toNat ≤ b.now.toNat - frame)

theorem service_ovr {frame : Nat} {b : Block} (hframe : 1 ≤ frame) (h : BlockSound frame b) (hrun : b.run = true) :
    ∃ b' missed, service frame b = some b' ∧ b'.ovr = ovrAfter b.ovr missed ∧ (missed = true ↔ MissesEvent frame b) := by
  have hq := queueOk_of_run h.data hrun
  have hevi := h.data.run_evi hrun
  have htwo := hq.two_le
  rcases Nat.lt_or_ge b.now.toNat frame with hwithin | hlate
  · obtain ⟨j, hge, hle, hdue, hahead⟩ := exists_first_ahead hq hwithin hevi
    refine ⟨_, _, service_within_frame hframe h.data hrun hge hle hdue hahead, rfl, ?_⟩
    rw [anyMissed_range'_iff, Nat.add_sub_cancel' hge]
    constructor
    · rintro ⟨k, hk, hkj, hmissed⟩
      exact .inl ⟨k, hk, hkj.le.trans hle, hdue k hk hkj, hmissed⟩
    · rintro (⟨k, hk, hkn, hkdue, hmissed⟩ | ⟨hno, -⟩)
      · refine ⟨k, hk, Nat.lt_of_not_le fun hjk => ?_, hmissed⟩
        have := tick_le_of_queueOk hq hjk hkn
        omega
      · omega
  · obtain ⟨j, -, hle, hdue, hahead⟩ :=
      exists_first_ahead (i := 0) (queueOk_next h.data hrun) (Nat.mod_lt b.now.toNat hframe) (Nat.zero_le _)
    refine ⟨_, _, service_late hframe h hrun hlate hle (fun k => hdue k (Nat.zero_le k)) hahead, rfl, ?_⟩
    rw [Bool.or_eq_true, anyMissed_range'_iff, decide_eq_true_eq]
    refine or_congr (exists_congr fun k => and_congr_right fun _ => ?_) ⟨fun hfirst => ⟨hlate, hfirst⟩, And.right⟩
    constructor
    · rintro ⟨hk, hmissed⟩
      have hkn : k ≤ b.evn.toNat - 1 := by omega
      have hbound := tick_le_of_queueOk hq hkn le_rfl
      rw [hq.marker_tick] at hbound
      exact ⟨hkn, hbound.trans hlate, hmissed⟩
    · rintro ⟨hkn, -, hmissed⟩
      exact ⟨by omega, hmissed⟩

/-- Settles O59: `service_ovr`, by `step_service`. -/
theorem serviceCountsMissedEvents : Obligations.ServiceCountsMissedEvents := by
  unfold Obligations.ServiceCountsMissedEvents
  intro s hlive h hs hi _ _ _
  obtain ⟨b, missed, hb, hovr, hiff⟩ := service_ovr one_le_frameTicks h (run_of_enabled h.data hi)
  refine ⟨_, step_service hlive hs hi hb, fun hyes => ?_, fun hno => ?_⟩
  · rw [State.silent_block, hovr, hiff.2 hyes]
    simp only [ovrAfter, if_true, satSucc16, BitVec.toNat_ofNat]
    omega
  · have hfalse : missed = false := Bool.eq_false_iff.2 fun hc => hno (hiff.1 hc)
    rw [State.silent_block, hovr, hfalse]
    rfl

end Sys2Proof.Laws
end

section
/-! PROOFS. The Control API commands that write (R180 to R188) and NOP (R190): the block and the response of each, and the stopped
timer that DISARM leaves. -/

namespace Sys2Proof.Laws

open Sys2Proof.Machine

/-! ### NOP (R190) -/

/-- Settles O11: NOP is `done` of the block as it is. -/
theorem nopChangesNothing : Obligations.NopChangesNothing := by
  unfold Obligations.NopChangesNothing
  exact ⟨encodedBy_of_row (r := opcodeRows[0]) rfl, fun s hlive => replies_done hlive rfl⟩

/-! ### INIT_SERVOS: each check with those before it passed (R180, R181) -/

section InitServos

variable {frame : Nat} {b : Block}

theorem initServos_of_other (ht : b.town = .other) : initServos frame b = failed b .errResource := by
  rw [initServos, ht]

theorem initServos_of_empty (ht : b.town ≠ .other) (hb : build frame b.ch = .empty) : initServos frame b = done b := by
  cases htown : b.town with
  | other => exact absurd htown ht
  | _ => simp only [initServos, htown, hb]

theorem initServos_of_reject (ht : b.town ≠ .other) (hb : build frame b.ch = .reject) :
    initServos frame b = failed b .errSchedule := by
  cases htown : b.town with
  | other => exact absurd htown ht
  | _ => simp only [initServos, htown, hb]

theorem initServos_of_free {q : Vector Entry 7} {n : BitVec 3} (ht : b.town = .free) (hb : build frame b.ch = .built q n) :
    initServos frame b = done (b.arm q n) := by
  simp only [initServos, ht, hb]

end InitServos

/-- Settles O12: the checks in their order, then the arming from FREE and the rebuild while armed. -/
theorem initServosArmsOrRebuilds : Obligations.InitServosArmsOrRebuilds := by
  unfold Obligations.InitServosArmsOrRebuilds
  refine ⟨encodedBy_of_row (r := opcodeRows[2]) rfl, fun s hlive => ⟨fun ht => ?_, fun ht hnone => ?_, fun ht hb => ?_,
    fun q n ht hb => ?_, fun q n ht hb => ?_⟩⟩
  · exact replies_failed hlive (initServos_of_other ht) rfl
  · have hb : build Config.frameTicks s.block.ch = .empty := build_eq_empty_iff.2 (sortedSlots_eq_nil_iff.2 hnone)
    exact replies_done hlive (initServos_of_empty ht hb)
  · exact replies_failed hlive (initServos_of_reject ht hb) rfl
  · exact replies_done hlive (initServos_of_free ht hb)
  · exact replies_done hlive (initServos_of_armed ht hb)

/-! ### DISARM (R184) -/

theorem disarm_of_armed {b : Block} (ht : b.town = .servo) : disarm b = done b.disarm := by
  rw [disarm, if_pos ht]

theorem disarm_of_not_armed {b : Block} (ht : b.town ≠ .servo) : disarm b = done b := by
  rw [disarm, if_neg ht]

theorem interruptEnabled_of_ocf {b : Block} (h : b.ocf = false) : b.interruptEnabled = false :=
  interruptEnabled_eq_false_iff.2 (.inl h)

/-- With the timer stopped and no request pending, TICK and SERVICE are not enabled, and no command but INIT_SERVOS writes RUN or
OCF. -/
theorem BlockStep.stopped {s : State} {b : Block} (h : BlockStep s b) (hrun : s.block.run = false) (hocf : s.block.ocf = false)
    (hno : ¬ s.OffersCommand .initServos) : b.run = false ∧ b.ocf = false := by
  cases h with
  | tick _ hruns => simp [hrun] at hruns
  | service _ henabled _ => simp [interruptEnabled_of_ocf hocf] at henabled
  | arm ho _ _ => exact absurd ho hno
  | disarm _ _ => exact ⟨rfl, rfl⟩
  | _ => exact ⟨hrun, hocf⟩

/-- Settles O13: DISARM armed and not armed, and `BlockStep.stopped` for the steps that follow. -/
theorem disarmStopsTheTimer : Obligations.DisarmStopsTheTimer := by
  unfold Obligations.DisarmStopsTheTimer
  refine ⟨encodedBy_of_row (r := opcodeRows[3]) rfl, fun s hlive => ⟨fun ht => ⟨?_, fun t h => ?_⟩, fun ht => ?_,
    fun hrun hocf hno t h => ?_⟩⟩
  · exact replies_done hlive (disarm_of_armed ht)
  · obtain ⟨-, rfl⟩ := exec_eq_next.1 h
    rw [State.answer_block, replyOf, disarm_of_armed ht]
    exact interruptEnabled_of_ocf rfl
  · exact replies_done hlive (disarm_of_not_armed ht)
  · obtain ⟨hrun', hocf'⟩ := (blockStep_of_step h).2.stopped hrun hocf hno
    exact ⟨hrun', hocf', interruptEnabled_of_ocf hocf'⟩

/-! ### GIE_WR (R186) -/

theorem interruptEnabled_iff {b : Block} :
    b.interruptEnabled = true ↔ b.gie = true ∧ b.ocf = true ∧ b.ocie = true := by
  rw [Block.interruptEnabled, Bool.and_eq_true, Bool.and_eq_true, and_comm]

/-- Settles O14: the write of GIE, and `interruptEnabled_iff` of the block written. -/
theorem gieWrWritesGie : Obligations.GieWrWritesGie := by
  unfold Obligations.GieWrWritesGie
  refine fun s v hlive => ⟨encodedBy_of_row (r := opcodeRows[4]) rfl, replies_done hlive rfl, fun t h => ?_⟩
  obtain ⟨-, rfl⟩ := exec_eq_next.1 h
  exact ⟨interruptEnabled_iff, rfl⟩

end Sys2Proof.Laws
end

section
/-! PROOFS. RD_REG (R189): the registers by number and the layout of each (R66). -/

namespace Sys2Proof.Laws

open Sys2Proof.Machine

/-! ### The numbers of the registers (R66) -/

theorem regName?_regNumber (name : RegName) : regName? (regNumber name) = some name := by
  cases name <;> rfl

theorem regNumber_injective : Function.Injective regNumber := fun a b h =>
  Option.some.inj (by rw [← regName?_regNumber a, h, regName?_regNumber b])

theorem exists_regNumber_eq {r : BitVec 4} (h : r.toNat ≤ 8) : ∃ name, regNumber name = r := by
  have hback : (regName? r).map regNumber = some r := by
    revert r
    decide
  obtain ⟨name, -, hname⟩ := Option.map_eq_some_iff.1 hback
  exact ⟨name, hname⟩

theorem rdReg_regNumber (frame : Nat) (name : RegName) (b : Block) :
    rdReg frame (regNumber name) b = readOut b (b.readReg frame name) := by
  rw [rdReg, regName?_regNumber]

/-! ### The layouts (R66) -/

/-- STATUS, bit by bit. -/
theorem statusReg_fields (b : Block) :
    b.statusReg.getLsbD 0 = b.gie ∧ b.statusReg.getLsbD 1 = b.run ∧ b.statusReg.getLsbD 2 = b.ocie ∧
      b.statusReg.getLsbD 3 = b.ocf ∧ (b.statusReg.getLsbD 4 = true ↔ b.phase = .scheduled) ∧
      b.statusReg.getLsbD 5 = b.pend ∧ (b.statusReg.getLsbD 6 = true ↔ b.town = .servo) ∧
      (b.statusReg.getLsbD 7 = true ↔ b.town = .other) ∧ b.statusReg.getLsbD 8 = b.fault ∧
      b.statusReg.extractLsb' 9 3 = b.evi ∧ b.statusReg.extractLsb' 12 3 = b.evn ∧ b.statusReg.extractLsb' 15 3 = b.shn ∧
      b.statusReg.extractLsb' 18 10 = 0 := by
  have hphase : b.phase.bit.getLsbD 0 = true ↔ b.phase = .scheduled := by cases b.phase <;> decide
  have hservo : b.town.bits.getLsbD 0 = true ↔ b.town = .servo := by cases b.town <;> decide
  have hother : b.town.bits.getLsbD 1 = true ↔ b.town = .other := by cases b.town <;> decide
  rw [← hphase, ← hservo, ← hother]
  and_intros <;> simp [Block.statusReg, BitVec.extractLsb'_or]

theorem schedPosReg_fields (b : Block) :
    b.schedPosReg.extractLsb' 16 3 = b.evi ∧ b.schedPosReg.extractLsb' 0 16 = b.ocr ∧
      b.schedPosReg.extractLsb' 19 9 = 0 := by
  and_intros <;> simp [Block.schedPosReg, BitVec.extractLsb'_or]

theorem vmaskReg_fields (b : Block) :
    (∀ i : Fin 6, b.vmaskReg.getLsbD i.val = b.ch[i].valid) ∧ b.vmaskReg.extractLsb' 6 22 = 0 := by
  refine ⟨fun i => ?_, by simp [Block.vmaskReg, BitVec.extractLsb'_or]⟩
  fin_cases i <;> simp [Block.vmaskReg]

/-- NOW is the difference of the counter and the frame base, taken modulo 65536 (R43). -/
theorem toNat_now (b : Block) : (b.now.toNat : Int) = ((b.cnt.toNat : Int) - b.fbase.toNat) % 65536 := by
  have hc := b.cnt.isLt
  have hf := b.fbase.isLt
  rw [Block.now, BitVec.toNat_sub]
  omega

/-- Settles O15: `rdReg_regNumber`, with the layout of each register; `rdReg_of_ge` past the last one. -/
theorem rdRegReadsTheRegister : Obligations.RdRegReadsTheRegister := by
  unfold Obligations.RdRegReadsTheRegister
  intro s r hlive
  refine ⟨encodedBy_of_row (r := opcodeRows[5]) rfl, fun hr => replies_failed hlive (rdReg_of_ge hr) rfl, fun hr => ?_⟩
  obtain ⟨name, rfl⟩ := exists_regNumber_eq hr
  refine ⟨_, replies_readOut hlive (rdReg_regNumber ..), statusOf_responseWord .ok _, ?_⟩
  rw [dataOf_responseWord]
  refine ⟨fun h => ?_, fun h => ?_, fun h => ?_, fun h => ?_, fun h => ?_, fun h => ?_, fun h => ?_, fun h => ?_, fun h => ?_⟩
  · obtain rfl : name = .status := regNumber_injective h
    exact statusReg_fields s.block
  · obtain rfl : name = .cnt := regNumber_injective h
    exact toNat_place_zero (by decide) s.block.cnt
  · obtain rfl : name = .ocr := regNumber_injective h
    exact toNat_place_zero (by decide) s.block.ocr
  · obtain rfl : name = .fbase := regNumber_injective h
    exact toNat_place_zero (by decide) s.block.fbase
  · obtain rfl : name = .frame := regNumber_injective h
    exact (toNat_place_zero (by decide) _).trans (toNat_tick16 Config.frameTicks_le)
  · obtain rfl : name = .schedPos := regNumber_injective h
    exact schedPosReg_fields s.block
  · obtain rfl : name = .ovr := regNumber_injective h
    exact toNat_place_zero (by decide) s.block.ovr
  · obtain rfl : name = .now := regNumber_injective h
    rw [Block.readReg, toNat_place_zero (by decide)]
    exact toNat_now s.block
  · obtain rfl : name = .vmask := regNumber_injective h
    exact vmaskReg_fields s.block

end Sys2Proof.Laws
end

section
/-! PROOFS. The GPIO commands on the output latches (R201 to R204), and timer ownership by the host (R206, R207). -/

namespace Sys2Proof.Laws

open Sys2Proof.Machine

/-! ### Masked writes of a latch (R201 to R203) -/

/-- A command that rewrites the masked bits of one latch by `f`, and keeps its other bits, answers OK and changes the levels of
exactly the masked pins of that port. -/
theorem replies_masked_write {s : State} {i : Instr} {p : PortId} {v m : PortBits} (f : Level → Level) (hlive : s.Live)
    (hr : replyOf i s.block = done (s.block.setPort p v))
    (hv : ∀ k, k < 8 → v.getLsbD k =
      if m.getLsbD k = true then f ((s.block.portOf p).getLsbD k) else (s.block.portOf p).getLsbD k) :
    ∃ ports, Replies i s { s.block with ports := ports } 0x00000000#32 ∧
      ∀ (q : PortId) (c : PinId), pinLevel ports q c =
        if q = p ∧ m.getLsbD c.toNat = true then f (pinLevel s.block.ports q c) else pinLevel s.block.ports q c := by
  refine ⟨(s.block.setPort p v).ports, replies_done hlive hr, fun q c => ?_⟩
  rw [pinLevel_setPort]
  by_cases hq : q = p
  · subst hq
    simp only [if_true, true_and]
    exact hv c.toNat c.isLt
  · simp [hq]

theorem getLsbD_or_mask (v m : PortBits) (k : Nat) :
    (v ||| m).getLsbD k = if m.getLsbD k = true then true else v.getLsbD k := by
  rw [BitVec.getLsbD_or]
  cases m.getLsbD k <;> simp

theorem getLsbD_and_not_mask {k : Nat} (hk : k < 8) (v m : PortBits) :
    (v &&& ~~~ m).getLsbD k = if m.getLsbD k = true then false else v.getLsbD k := by
  rw [BitVec.getLsbD_and, BitVec.getLsbD_not, decide_eq_true hk]
  cases m.getLsbD k <;> simp

theorem getLsbD_xor_mask (v m : PortBits) (k : Nat) :
    (v ^^^ m).getLsbD k = if m.getLsbD k = true then !v.getLsbD k else v.getLsbD k := by
  rw [BitVec.getLsbD_xor]
  cases m.getLsbD k <;> simp

/-- Settles O24: each command is a `replies_masked_write`, which sets, clears or inverts the masked bits. -/
theorem gpioCommandsWriteMaskedBits : Obligations.GpioCommandsWriteMaskedBits := by
  unfold Obligations.GpioCommandsWriteMaskedBits
  refine fun s p m hlive => ⟨encodedBy_of_row (r := opcodeRows[9]) rfl, encodedBy_of_row (r := opcodeRows[10]) rfl,
    encodedBy_of_row (r := opcodeRows[11]) rfl, ?_, ?_, ?_⟩
  · exact replies_masked_write (fun _ => true) hlive rfl fun k _ => getLsbD_or_mask _ m k
  · exact replies_masked_write (fun _ => false) hlive rfl fun k hk => getLsbD_and_not_mask hk _ m
  · exact replies_masked_write (fun level => !level) hlive rfl fun k _ => getLsbD_xor_mask _ m k

/-! ### RD_PORT (R204) -/

/-- The port record holds the latch in bits [7:0], and 0 above them. -/
theorem portRecord_fields (v : PortBits) :
    (∀ c : PinId, (portRecord v).getLsbD c.toNat = v.getLsbD c.toNat) ∧ (portRecord v).extractLsb' 8 20 = 0 := by
  refine ⟨fun c => ?_, extractLsb'_place_disjoint (.inl (by decide)) v⟩
  have hc : c.toNat < 28 := c.isLt.trans (by decide)
  simp [portRecord, hc]

/-- Settles O25: `portRecord_fields` of the latch. -/
theorem rdPortReadsTheLatch : Obligations.RdPortReadsTheLatch := by
  unfold Obligations.RdPortReadsTheLatch
  refine fun s p hlive => ⟨encodedBy_of_row (r := opcodeRows[8]) rfl, _, replies_readOut hlive rfl,
    statusOf_responseWord .ok _, ?_⟩
  rw [dataOf_responseWord]
  exact portRecord_fields (s.block.portOf p)

/-! ### EXT_CLAIM (R206) -/

theorem extClaim_of_free {b : Block} (ht : b.town = .free) : extClaim b = done { b with town := .other } := by
  rw [extClaim, ht]

theorem extClaim_of_other {b : Block} (ht : b.town = .other) : extClaim b = done b := by
  rw [extClaim, ht]

theorem extClaim_of_armed {b : Block} (ht : b.town = .servo) :
    extClaim b = failed { b with fault := true } .errResource := by
  rw [extClaim, ht]

/-- Settles O26: one reply for each owner of the timer. -/
theorem extClaimTakesOrFaults : Obligations.ExtClaimTakesOrFaults := by
  unfold Obligations.ExtClaimTakesOrFaults
  refine ⟨encodedBy_of_row (r := opcodeRows[12]) rfl, fun s hlive => ⟨fun ht => ?_, fun ht => ?_, fun ht => ?_⟩⟩
  · exact replies_done hlive (extClaim_of_free ht)
  · exact replies_done hlive (extClaim_of_other ht)
  · have hword : responseWord .errResource 0 = 0x50000000#32 := by decide
    exact hword ▸ replies_of_replyOf (i := .extClaim) hlive (extClaim_of_armed ht)

/-! ### EXT_RELEASE (R207) -/

theorem extRelease_of_other {b : Block} (ht : b.town = .other) : extRelease b = done { b with town := .free } := by
  rw [extRelease, ht]

theorem extRelease_of_not_other {b : Block} (ht : b.town ≠ .other) : extRelease b = done b := by
  cases htown : b.town with
  | other => exact absurd htown ht
  | _ => simp only [extRelease, htown]

/-- Settles O27: `extRelease_of_other`, and `extRelease_of_not_other` for the two owners left. -/
theorem extReleaseFreesOthersTimer : Obligations.ExtReleaseFreesOthersTimer := by
  unfold Obligations.ExtReleaseFreesOthersTimer
  refine ⟨encodedBy_of_row (r := opcodeRows[13]) rfl, fun s hlive => ⟨fun ht => ?_, fun ht => ?_⟩⟩
  · exact replies_done hlive (extRelease_of_other ht)
  · exact replies_done hlive (extRelease_of_not_other ht)

end Sys2Proof.Laws
end

section
/-! PROOFS. Errors and the commands that cannot fail (R220, R223), and the pending request (R225). -/

namespace Sys2Proof.Laws

open Sys2Proof.Machine

/-! ### Errors (R220) -/

/-- A command answers OK, fails with the block as it was, or is the EXT_CLAIM while armed, whose error sets FAULT (R206). -/
theorem replyOf_ok_or_failed (i : Instr) (b : Block) :
    (replyOf i b).status = .ok ∨ (∃ st, replyOf i b = failed b st) ∨
    (i = .extClaim ∧ b.town = .servo ∧ replyOf i b = failed { b with fault := true } .errResource) := by
  rcases replyOf_cases i b with
    ⟨st, -, hr⟩ | ⟨_, hr⟩ | ⟨_, _, _, _, _, _, _, -, -, -, hr⟩ | ⟨_, _, _, _, _, _, _, _, _, -, -, -, hr⟩ | ⟨_, _, -, -, -, hr⟩ |
    ⟨_, _, -, -, -, hr⟩ | ⟨-, -, hr⟩ | ⟨_, -, hr⟩ | ⟨_, _, _, -, hr⟩ | ⟨-, -, hr⟩ | hmisuse | ⟨-, -, hr⟩
  on_goal 11 => exact .inr (.inr hmisuse)
  on_goal 1 => exact .inr (.inl ⟨st, hr⟩)
  all_goals exact .inl (congrArg Reply.status hr)

/-- Settles O48: an answer that is not OK is one of the two failures of `replyOf_ok_or_failed`. -/
theorem errorsChangeNothing : Obligations.ErrorsChangeNothing := by
  unfold Obligations.ErrorsChangeNothing
  intro i s t w h hw herror
  obtain ⟨-, rfl⟩ := exec_eq_next.1 h
  obtain rfl := Option.some.inj hw
  rw [statusOf_responseWord] at herror ⊢
  rw [dataOf_responseWord, State.answer_block]
  refine ⟨code_le_seven _, ?_⟩
  rcases replyOf_ok_or_failed i s.block with hok | ⟨st, hr⟩ | ⟨hi, ht, hr⟩
  · exact absurd (code_eq_zero_iff.2 hok) herror
  · rw [hr]
    exact ⟨rfl, .inl rfl⟩
  · rw [hr]
    exact ⟨rfl, .inr ⟨hi, ht, rfl⟩⟩

/-! ### Commands that cannot fail (R223) -/

/-- On an unfaulted block a command whose reply is OK ends in a next state, with status 0 in its response word. -/
theorem exec_answers_ok {i : Instr} {s : State} (hlive : s.Live) (hok : (replyOf i s.block).status = .ok) :
    ∃ t w, exec i s = .next t ∧ t.response = some w ∧ statusOf w = 0 :=
  ⟨_, _, exec_live hlive i, rfl, by rw [statusOf_responseWord, hok]; rfl⟩

theorem extRelease_status (b : Block) : (extRelease b).status = .ok := by
  by_cases ht : b.town = .other
  · rw [extRelease_of_other ht, done_status]
  · rw [extRelease_of_not_other ht, done_status]

/-- Settles O49: `exec_answers_ok`; all but EXT_RELEASE are one `done` or `readOut` whatever the block. -/
theorem someCommandsCannotFail : Obligations.SomeCommandsCannotFail := by
  unfold Obligations.SomeCommandsCannotFail
  intro i s hlive hi
  refine exec_answers_ok hlive ?_
  rcases hi with rfl | rfl | ⟨v, rfl⟩ | ⟨p, rfl⟩ | ⟨p, m, rfl⟩ | ⟨p, m, rfl⟩ | ⟨p, m, rfl⟩ | rfl
  any_goals rfl
  exact extRelease_status s.block

/-! ### The pending request (R225) -/

/-- Only a DISARM while armed and an enabled SERVICE write OCF to 0; a TICK and the arming can only set it. -/
theorem BlockStep.ocf_kept {s : State} {b : Block} (h : BlockStep s b) (hocf : s.block.ocf = true)
    (hdisarm : ¬ s.OffersCommand .disarm) (hservice : ¬(s.nextEvent = .service ∧ s.block.interruptEnabled = true)) :
    b.ocf = true := by
  cases h with
  | tick _ _ => exact (ocf_tick_iff s.block).2 (.inl hocf)
  | arm _ _ _ => rfl
  | disarm ho _ => exact absurd ho hdisarm
  | service he henabled _ => exact absurd ⟨he, henabled⟩ hservice
  | _ => exact hocf

/-- Settles O31: `BlockStep.ocf_kept` of the block after the step. -/
theorem pendingRequestIsNeverLost : Obligations.PendingRequestIsNeverLost := by
  unfold Obligations.PendingRequestIsNeverLost
  exact fun s t h => (blockStep_of_step h).2.ocf_kept

end Sys2Proof.Laws
end

section
/-! PROOFS. The block right after reset (R260, R262) and the hazards: a registration and the hardware (R265), and a DISARM while
only the marker remains (R267). -/

namespace Sys2Proof.Laws

open Sys2Proof.Machine

/-! ### The elements at reset (R260) -/

@[simp] theorem reset_ch (i : Fin 6) : Block.reset.ch[i] = Channel.empty := Vector.getElem_replicate _

@[simp] theorem reset_evq (k : Fin 7) : Block.reset.evq[k] = Entry.zero := Vector.getElem_replicate _

@[simp] theorem reset_shq (k : Fin 7) : Block.reset.shq[k] = Entry.zero := Vector.getElem_replicate _

@[simp] theorem reset_ports (p : Fin 4) : Block.reset.ports[p] = 0 := Vector.getElem_replicate _

theorem statusReg_reset : Block.reset.statusReg = 0 := by decide

/-- Reading STATUS right after reset answers OK with data 0 (R66, R260). -/
theorem replies_status_reset : Replies (.rdReg 0) State.reset Block.reset 0x00000000#32 := by
  refine replies_done rfl ((rdReg_regNumber Config.frameTicks .status Block.reset).trans ?_)
  rw [Block.readReg, statusReg_reset]
  rfl

/-- Settles O8: the slots, places and latches of `Block.reset` are replicated zeros, its other elements are written out as 0, and
STATUS reads `replies_status_reset`. -/
theorem resetLeavesEverythingZero : Obligations.ResetLeavesEverythingZero := by
  unfold Obligations.ResetLeavesEverythingZero
  refine ⟨fun i => ?_, fun k => ?_, fun k => ?_, rfl, rfl, rfl, rfl, rfl, rfl, rfl, rfl, rfl, rfl, rfl, rfl, rfl, rfl, rfl,
    reset_ports, replies_status_reset⟩
  · exact reset_ch i ▸ ⟨rfl, rfl, rfl, rfl, rfl⟩
  · exact reset_evq k ▸ ⟨rfl, rfl, rfl, rfl, rfl⟩
  · exact reset_shq k ▸ ⟨rfl, rfl, rfl, rfl, rfl⟩

/-! ### What is enabled after reset (R262) -/

/-- Settles O9: with RUN and OCF 0 the two events are disabled offers, and an unfaulted block answers every command. -/
theorem onlyCommandsEnabledAfterReset : Obligations.OnlyCommandsEnabledAfterReset := by
  unfold Obligations.OnlyCommandsEnabledAfterReset
  intro s hs
  have hlive : s.Live := by rw [State.Live, hs]; rfl
  have hrun : s.block.run = false := by rw [hs]; rfl
  have hidle : s.block.interruptEnabled = false := interruptEnabled_of_ocf (by rw [hs]; rfl)
  refine ⟨hrun, hidle, ?_, fun i => ⟨_, exec_live hlive i⟩⟩
  rintro (he | he)
  · rw [step_tick_disabled hlive he hrun, silent_dropEvent_block]
  · rw [step_service_disabled hlive he hidle, silent_dropEvent_block]

/-! ### The invariants at reset -/

theorem registryOk_reset : RegistryOk Block.reset.ch := by
  have hnone : ∀ i : Fin 6, Block.reset.ch[i].valid ≠ true := fun i => by rw [reset_ch]; decide
  constructor
  case width_pos => exact fun i hv => absurd hv (hnone i)
  case width_le => exact fun i hv => absurd hv (hnone i)
  case pins_apart => exact fun i _ _ hv => absurd hv (hnone i)

theorem blockOk_reset (frame : Nat) : BlockOk frame Block.reset where
  registry := registryOk_reset
  active hn := absurd hn (by decide)
  shadow hn := absurd hn (by decide)
  run_ocie := rfl
  run_town := rfl
  ocf_run hc := absurd hc (by decide)
  pend_run hc := absurd hc (by decide)
  run_evn hc := absurd hc (by decide)
  run_evi hc := absurd hc (by decide)
  pend_shn hc := absurd hc (by decide)

/-- The sequencer's invariant speaks of a running timer only. -/
theorem sequencerOk_of_stopped {b : Block} (h : b.run = false) : SequencerOk b := by
  constructor <;> (intro hrun; simp [h] at hrun)

/-- The pin invariant speaks of a running timer only. -/
theorem pulsesOk_of_stopped {b : Block} (h : b.run = false) : PulsesOk b := by
  constructor <;> (intro hrun; simp [h] at hrun)

/-- Settles O43: `blockOk_reset`; the timer is stopped, so nothing is asked of the sequencer and the pins. -/
theorem resetIsSound : Obligations.ResetIsSound := by
  unfold Obligations.ResetIsSound
  exact ⟨⟨blockOk_reset _, sequencerOk_of_stopped rfl⟩, pulsesOk_of_stopped rfl⟩

/-! ### Registration and the hardware (R265) -/

theorem setChannel_ch_of_ne {b : Block} {i j : Fin 6} {c : Channel} (h : j ≠ i) : (b.setChannel i c).ch[j] = b.ch[j] :=
  Vector.getElem_set_ne i.isLt j.isLt fun hv => h (Fin.ext hv.symm)

/-- INIT_SERVO writes its slot and, while armed, the shadow queue; nothing else (R110, R114). -/
theorem initServo_frame (frame : Nat) (idx : BitVec 3) (port : PortId) (pin : PinId) (rest : Level) (pw : Tick) (b : Block) :
    let b' := (initServo frame idx port pin rest pw b).block
    b' = { b with ch := b'.ch, shq := b'.shq, shn := b'.shn, pend := b'.pend } ∧
      (b.town ≠ .servo → b' = { b with ch := b'.ch }) ∧ ∀ j : Fin 6, j.val ≠ idx.toNat → b'.ch[j] = b.ch[j] := by
  rcases initServo_cases frame idx port pin rest pw b with ⟨st, -, hr⟩ | ⟨hidx, -, -, ⟨-, hr⟩ | ⟨q, n, ht, -, hr⟩⟩ <;> rw [hr]
  · exact ⟨rfl, fun _ => rfl, fun _ _ => rfl⟩
  · exact ⟨rfl, fun _ => rfl, fun j hj => setChannel_ch_of_ne (Fin.ne_of_val_ne hj)⟩
  · exact ⟨rfl, fun hno => absurd ht hno, fun j hj => setChannel_ch_of_ne (Fin.ne_of_val_ne hj)⟩

/-- Settles O17: `initServo_frame` of the block after the command. -/
theorem registrationHasNoHardwareEffect : Obligations.RegistrationHasNoHardwareEffect := by
  unfold Obligations.RegistrationHasNoHardwareEffect
  intro s t idx port pin rest pw h
  obtain ⟨-, rfl⟩ := exec_eq_next.1 h
  exact initServo_frame Config.frameTicks idx port pin rest pw s.block

/-! ### The clean stop (R267) -/

/-- Settles O47: with only the marker left every entry of the queue has been executed, so its pin is at rest
(`PulsesOk.executed`); DISARM stops the timer, clears the request and writes no port. -/
theorem disarmBeforeTheWrapIsClean : Obligations.DisarmBeforeTheWrapIsClean := by
  unfold Obligations.DisarmBeforeTheWrapIsClean
  intro s hlive h hp ht hphase hmarker
  have hrun : s.block.run = true := by simp [h.run_town, ht]
  have hblock : (replyOf .disarm s.block).block = s.block.disarm := by rw [replyOf, disarm_of_armed ht, done_block]
  refine ⟨_, exec_live hlive .disarm, ?_⟩
  rw [State.answer_block, hblock]
  exact ⟨rfl, interruptEnabled_of_ocf rfl, fun k hk => hp.executed hrun hphase k (hmarker ▸ hk)⟩

end Sys2Proof.Laws
end
